-- ==== Sys2Proof/Word.lean ====
section
/-! DEFINITION. The word types of the engine: what the spec treats as bits. -/

namespace Sys2Proof

/-- A byte: a command register, a VRAM byte, the status byte (00_scope.md R8). -/
abbrev Byte := BitVec 8

/-- A host-call word (30_encoding.md R89). -/
abbrev HostWord := BitVec 16

/-- A VRAM byte address, `0 .. 0x1FFFF` (20_memory.md R50). -/
abbrev VramAddr := BitVec 17

end Sys2Proof
end

