-- ==== Sys2Proof/Config.lean ====
section
/-! DEFINITION. What an implementation fixes (00_scope.md R7) and the free values (60_exceptions.md R203). -/

namespace Sys2Proof

/-- The four packed pixel layouts, display modes 0 to 3 (20_memory.md R53, R54). -/
inductive Layout
  | l0 | l1 | l2 | l3
  deriving DecidableEq, Repr

/-- The opcode classes of the timing lookup, one per handler that charges (40_dispatch.md R121). -/
inductive CostClass
  | srch | line | lmmv | lmmm | lmcm | lmmc | hmmv | hmmm | ymmm | hmmc
  deriving DecidableEq, Repr

/-- RESTART_POLICY: what a start does while an operation is active (40_dispatch.md R106). -/
inductive RestartPolicy
  | abort | refuse
  deriving DecidableEq, Repr

/-- SRCH_EDGE_X: the X a search without a match records (41_search.md R142). -/
inductive SrchEdge
  | lastInRange | firstOutOfRange
  deriving DecidableEq, Repr

/-- The OPEN parameters of 00_scope.md R7 that take one of two settings. They are plain data in
`State.params`, so that a statement over all states holds for every setting; no step changes them
(log 9). -/
structure Config.Params where
  /-- PLANAR_G6G7: interleaved byte addressing of layouts 2 and 3 (20_memory.md R56). -/
  planarG6G7 : Bool
  /-- RESTART_POLICY (40_dispatch.md R106). -/
  restartPolicy : RestartPolicy
  /-- SRCH_EDGE_X (41_search.md R142). -/
  srchEdgeX : SrchEdge
  deriving DecidableEq, Repr

/-- The defaults that 00_scope.md R7 gives (DESIGN CHOICE of the spec, log 9). -/
def Config.defaultParams : Config.Params :=
  { planarG6G7 := false, restartPolicy := .abort, srchEdgeX := .lastInRange }

/-- VRAM_SIZE in bytes (20_memory.md R50). -/
def Config.vramSize : Nat := 131072

/-- COST_TABLE: class, layout, blanking flag. OPEN, "No source gives any entry value"
(40_dispatch.md R121); no value of it can be proved (log 8). -/
opaque Config.costTable : CostClass → Layout → Bool → Nat

/-- The free values a reserved logical-operation code draws (20_memory.md R60, 60_exceptions.md
R203), one for each draw; the pixel accessor cuts a drawn byte to the pixel mask (log 7). -/
opaque Config.freePixel : Nat → Byte

end Sys2Proof
end

