-- ==== Sys2Proof/Syntax.lean ====
section
/-! DEFINITION. The instruction set: one constructor for each row of spec/opcode_table.json. -/

namespace Sys2Proof

/-- The sixteen values of the opcode field CM, by name (30_encoding.md R85). -/
inductive Opcode
  | stop | unknown1 | unknown2 | unknown3 | unknown4 | unknown5
  | srch | line | lmmv | lmmm | lmcm | lmmc | hmmv | hmmm | ymmm | hmmc
  deriving DecidableEq, Repr

/-- A host-call word, classified (30_encoding.md R90; the register-14 writes are split by CM, R85).
Bits that the decoder ignores (R92) are no operands. -/
inductive Instr
  /-- WR 0: source X, low byte. -/
  | wrSxl (value : Byte)
  /-- WR 1: source X, high bit. -/
  | wrSxh (value : Byte)
  /-- WR 2: source Y, low byte. -/
  | wrSyl (value : Byte)
  /-- WR 3: source Y, high bits. -/
  | wrSyh (value : Byte)
  /-- WR 4: destination X, low byte. -/
  | wrDxl (value : Byte)
  /-- WR 5: destination X, high bit. -/
  | wrDxh (value : Byte)
  /-- WR 6: destination Y, low byte. -/
  | wrDyl (value : Byte)
  /-- WR 7: destination Y, high bits. -/
  | wrDyh (value : Byte)
  /-- WR 8: size X, low byte. -/
  | wrNxl (value : Byte)
  /-- WR 9: size X, high bit. -/
  | wrNxh (value : Byte)
  /-- WR 10: size Y, low byte. -/
  | wrNyl (value : Byte)
  /-- WR 11: size Y, high bits. -/
  | wrNyh (value : Byte)
  /-- WR 12: colour, and the data of a CPU-to-VRAM transfer. -/
  | wrClr (value : Byte)
  /-- WR 13: direction and mode bits. -/
  | wrArg (value : Byte)
  /-- WR 14 with CM = 0x0: STOP. -/
  | cmdStop (lo : BitVec 4)
  /-- WR 14 with CM = 0x1: the unknown code 0x1. -/
  | cmdUnknown1 (lo : BitVec 4)
  /-- WR 14 with CM = 0x2: the unknown code 0x2. -/
  | cmdUnknown2 (lo : BitVec 4)
  /-- WR 14 with CM = 0x3: the unknown code 0x3. -/
  | cmdUnknown3 (lo : BitVec 4)
  /-- WR 14 with CM = 0x4: the unknown code 0x4. -/
  | cmdUnknown4 (lo : BitVec 4)
  /-- WR 14 with CM = 0x5: the unknown code 0x5. -/
  | cmdUnknown5 (lo : BitVec 4)
  /-- WR 14 with CM = 0x6: SRCH. -/
  | cmdSrch (lo : BitVec 4)
  /-- WR 14 with CM = 0x7: LINE. -/
  | cmdLine (lo : BitVec 4)
  /-- WR 14 with CM = 0x8: LMMV. -/
  | cmdLmmv (lo : BitVec 4)
  /-- WR 14 with CM = 0x9: LMMM. -/
  | cmdLmmm (lo : BitVec 4)
  /-- WR 14 with CM = 0xA: LMCM. -/
  | cmdLmcm (lo : BitVec 4)
  /-- WR 14 with CM = 0xB: LMMC. -/
  | cmdLmmc (lo : BitVec 4)
  /-- WR 14 with CM = 0xC: HMMV. -/
  | cmdHmmv (lo : BitVec 4)
  /-- WR 14 with CM = 0xD: HMMM. -/
  | cmdHmmm (lo : BitVec 4)
  /-- WR 14 with CM = 0xE: YMMM. -/
  | cmdYmmm (lo : BitVec 4)
  /-- WR 14 with CM = 0xF: HMMC. -/
  | cmdHmmc (lo : BitVec 4)
  /-- WR 15: names no register (60_exceptions.md R205). -/
  | wr15 (value : Byte)
  /-- RS: readStatus. -/
  | rs
  /-- RP: readPixelTransfer. -/
  | rp
  /-- MODE m: notifyDisplayModeChanged. -/
  | mode (m : Byte)
  /-- VNOTE: notifyVramRegionChanged. -/
  | vnote
  /-- SAVE: take the persisted-state record. -/
  | save
  /-- RESTORE: restore the record of the most recent SAVE. -/
  | restore
  /-- A word of the reserved kind 7: names no host call (30_encoding.md R90). -/
  | reservedKind7
  /-- A word of a reserved kind 8 to 15: names no host call (30_encoding.md R90). -/
  | reservedKinds8F
  deriving DecidableEq, Repr

end Sys2Proof
end

