-- ==== Sys2Proof/WellFormed.lean ====
section
/-! DEFINITION. Which instructions name a host call. -/

namespace Sys2Proof

/-- The word names a host call: its kind is below 7 (30_encoding.md R90, R92). Operand ranges need no
check, each field's type being the field's width. `WR 15` names a call (one that faults). -/
def Instr.wellFormed : Instr → Bool
  | .wrSxl _ => true
  | .wrSxh _ => true
  | .wrSyl _ => true
  | .wrSyh _ => true
  | .wrDxl _ => true
  | .wrDxh _ => true
  | .wrDyl _ => true
  | .wrDyh _ => true
  | .wrNxl _ => true
  | .wrNxh _ => true
  | .wrNyl _ => true
  | .wrNyh _ => true
  | .wrClr _ => true
  | .wrArg _ => true
  | .cmdStop _ => true
  | .cmdUnknown1 _ => true
  | .cmdUnknown2 _ => true
  | .cmdUnknown3 _ => true
  | .cmdUnknown4 _ => true
  | .cmdUnknown5 _ => true
  | .cmdSrch _ => true
  | .cmdLine _ => true
  | .cmdLmmv _ => true
  | .cmdLmmm _ => true
  | .cmdLmcm _ => true
  | .cmdLmmc _ => true
  | .cmdHmmv _ => true
  | .cmdHmmm _ => true
  | .cmdYmmm _ => true
  | .cmdHmmc _ => true
  | .wr15 _ => true
  | .rs => true
  | .rp => true
  | .mode _ => true
  | .vnote => true
  | .save => true
  | .restore => true
  | .reservedKind7 => false
  | .reservedKinds8F => false

end Sys2Proof
end

