-- ==== Sys2Proof/Decode.lean ====
section
/-! DEFINITION. The decoder of host-call words, the encoder, and the opcode field. -/

namespace Sys2Proof

/-- The opcode field of a command byte, by name (30_encoding.md R85). -/
def Opcode.code : Opcode → BitVec 4
  | .stop => 0x0
  | .unknown1 => 0x1
  | .unknown2 => 0x2
  | .unknown3 => 0x3
  | .unknown4 => 0x4
  | .unknown5 => 0x5
  | .srch => 0x6
  | .line => 0x7
  | .lmmv => 0x8
  | .lmmm => 0x9
  | .lmcm => 0xA
  | .lmmc => 0xB
  | .hmmv => 0xC
  | .hmmm => 0xD
  | .ymmm => 0xE
  | .hmmc => 0xF

/-- The command byte: CM in the high nibble, LO in the low one (30_encoding.md R84). -/
def commandByte (op : Opcode) (lo : BitVec 4) : Byte :=
  op.code ++ lo

/-- A register-14 write, split by its opcode (30_encoding.md R84, R85): all sixteen values. -/
def decodeCommand (cm lo : BitVec 4) : Instr :=
  match cm.toNat with
  | 0 => .cmdStop lo
  | 1 => .cmdUnknown1 lo
  | 2 => .cmdUnknown2 lo
  | 3 => .cmdUnknown3 lo
  | 4 => .cmdUnknown4 lo
  | 5 => .cmdUnknown5 lo
  | 6 => .cmdSrch lo
  | 7 => .cmdLine lo
  | 8 => .cmdLmmv lo
  | 9 => .cmdLmmm lo
  | 10 => .cmdLmcm lo
  | 11 => .cmdLmmc lo
  | 12 => .cmdHmmv lo
  | 13 => .cmdHmmm lo
  | 14 => .cmdYmmm lo
  | _ => .cmdHmmc lo

/-- A kind-0 word: a register write, split by its index (30_encoding.md R80, R90). -/
def decodeWrite (idx : BitVec 4) (value : Byte) : Instr :=
  match idx.toNat with
  | 0 => .wrSxl value
  | 1 => .wrSxh value
  | 2 => .wrSyl value
  | 3 => .wrSyh value
  | 4 => .wrDxl value
  | 5 => .wrDxh value
  | 6 => .wrDyl value
  | 7 => .wrDyh value
  | 8 => .wrNxl value
  | 9 => .wrNxh value
  | 10 => .wrNyl value
  | 11 => .wrNyh value
  | 12 => .wrClr value
  | 13 => .wrArg value
  | 14 => decodeCommand (value.extractLsb' 4 4) (value.extractLsb' 0 4)
  | _ => .wr15 value

/-- A host call by the three fields of its word (30_encoding.md R90, R92). -/
def decodeFields (kind idx : BitVec 4) (value : Byte) : Instr :=
  match kind.toNat with
  | 0 => decodeWrite idx value
  | 1 => .rs
  | 2 => .rp
  | 3 => .mode value
  | 4 => .vnote
  | 5 => .save
  | 6 => .restore
  | 7 => .reservedKind7
  | _ => .reservedKinds8F

/-- The decoder, total over every 16-bit word (30_encoding.md R89, R92). A reserved kind comes out as one
of the two reserved constructors, which name no host call: `Instr.wellFormed` refuses them and so does a
step (log 6). -/
def decode (w : HostWord) : Instr :=
  decodeFields (w.extractLsb' 12 4) (w.extractLsb' 8 4) (w.extractLsb' 0 8)

/-- A host-call word from its three fields (30_encoding.md R89). -/
def hostWord (kind idx : BitVec 4) (value : Byte) : HostWord :=
  kind ++ idx ++ value

/-- The encoder: the word of an instruction, every ignored bit 0 (30_encoding.md R80, R85, R90). -/
def encode : Instr → HostWord
  | .wrSxl v => hostWord 0 0 v
  | .wrSxh v => hostWord 0 1 v
  | .wrSyl v => hostWord 0 2 v
  | .wrSyh v => hostWord 0 3 v
  | .wrDxl v => hostWord 0 4 v
  | .wrDxh v => hostWord 0 5 v
  | .wrDyl v => hostWord 0 6 v
  | .wrDyh v => hostWord 0 7 v
  | .wrNxl v => hostWord 0 8 v
  | .wrNxh v => hostWord 0 9 v
  | .wrNyl v => hostWord 0 10 v
  | .wrNyh v => hostWord 0 11 v
  | .wrClr v => hostWord 0 12 v
  | .wrArg v => hostWord 0 13 v
  | .cmdStop lo => hostWord 0 14 (commandByte .stop lo)
  | .cmdUnknown1 lo => hostWord 0 14 (commandByte .unknown1 lo)
  | .cmdUnknown2 lo => hostWord 0 14 (commandByte .unknown2 lo)
  | .cmdUnknown3 lo => hostWord 0 14 (commandByte .unknown3 lo)
  | .cmdUnknown4 lo => hostWord 0 14 (commandByte .unknown4 lo)
  | .cmdUnknown5 lo => hostWord 0 14 (commandByte .unknown5 lo)
  | .cmdSrch lo => hostWord 0 14 (commandByte .srch lo)
  | .cmdLine lo => hostWord 0 14 (commandByte .line lo)
  | .cmdLmmv lo => hostWord 0 14 (commandByte .lmmv lo)
  | .cmdLmmm lo => hostWord 0 14 (commandByte .lmmm lo)
  | .cmdLmcm lo => hostWord 0 14 (commandByte .lmcm lo)
  | .cmdLmmc lo => hostWord 0 14 (commandByte .lmmc lo)
  | .cmdHmmv lo => hostWord 0 14 (commandByte .hmmv lo)
  | .cmdHmmm lo => hostWord 0 14 (commandByte .hmmm lo)
  | .cmdYmmm lo => hostWord 0 14 (commandByte .ymmm lo)
  | .cmdHmmc lo => hostWord 0 14 (commandByte .hmmc lo)
  | .wr15 v => hostWord 0 15 v
  | .rs => hostWord 1 0 0
  | .rp => hostWord 2 0 0
  | .mode m => hostWord 3 0 m
  | .vnote => hostWord 4 0 0
  | .save => hostWord 5 0 0
  | .restore => hostWord 6 0 0
  | .reservedKind7 => hostWord 7 0 0
  | .reservedKinds8F => hostWord 8 0 0

/-- The instruction the decoder reads from a word numbered as spec/opcode_table.json numbers its bits;
the bits above `nbits` are 0. A word longer than 16 bits is no host call (30_encoding.md R92: "Every
word is one 16-bit unit"). -/
def decodeTableWord (nbits w : Nat) : Option Instr :=
  if nbits ≤ 16 then some (decode (BitVec.ofNat 16 (w % 2 ^ nbits))) else none

end Sys2Proof
end

