-- ==== Sys2Proof/Machine/State.lean ====
section
/-! DEFINITION. The state of the engine and of the world its calls touch, as plain data, and its value
after reset. -/

namespace Sys2Proof.Machine

/-- `st.mode`: the layout last notified, or `OTHER` (10_state.md R29). -/
inductive Mode
  | layout (l : Layout)
  | other
  deriving DecidableEq, Repr

/-- A step direction, `+1` or `-1` (00_scope.md R11, 30_encoding.md R83). -/
inductive Dir
  | plus
  | minus
  deriving DecidableEq, Repr

/-- `MX`, the page width: 256 or 512 pixels (10_state.md R30). -/
inductive PageWidth
  | w256
  | w512
  deriving DecidableEq, Repr

/-- The geometry working set, GeometryState, with the fields and types of 10_state.md R30. -/
structure Geom where
  /-- CM, the opcode of the active operation. -/
  cm : Opcode
  /-- LO, the logical operation. -/
  lo : BitVec 4
  /-- CL, the colour register at start. -/
  cl : Byte
  /-- GL, the layout snapshotted at start. -/
  gl : Layout
  /-- MX, the layout's pixel width. -/
  mx : PageWidth
  /-- TX, the X direction. -/
  tx : Dir
  /-- TY, the Y direction. -/
  ty : Dir
  /-- SX, source row start. -/
  sx : Int
  /-- SY, current source row. -/
  sy : Int
  /-- DX, destination row start (byte units for HMMC). -/
  dx : Int
  /-- DY, current destination row. -/
  dy : Int
  /-- NX, row length, the reload value of ANX (byte units for HMMC). -/
  nx : Fin 512
  /-- NY, rows remaining, the current one included. -/
  ny : Fin 1024
  /-- ASX, current source X. -/
  asx : Int
  /-- ADX, current destination X (byte units for HMMC). -/
  adx : Int
  /-- ANX, pixels or bytes remaining in the row. -/
  anx : Fin 512
  /-- OPC, the operation-cost counter (10_state.md R33). -/
  opc : Nat
  deriving DecidableEq, Repr

/-- The command register file: fifteen bytes, indices 0 to 14 (10_state.md R20). -/
abbrev Regs := Vector Byte 15

/-- The persisted-state record (40_dispatch.md R118). -/
structure Record where
  version : Nat
  regs : Regs
  /-- The status byte of 40_dispatch.md R113. -/
  status : Byte
  borderX : Int
  mode : Mode
  geom : Option Geom
  lastCost : Nat
  deriving DecidableEq, Repr

/-- The reasons of a fault (60_exceptions.md R201). A fault is held in `State.fault` by the call that
raises it; a host call on a state that holds one answers it as its outcome (R204, log 2). -/
inductive Fault
  /-- Raised by `WR 15` (60_exceptions.md R205). Safe: the machine is stuck where the hardware's
  behaviour is undefined. -/
  | registerIndexOutOfRange (idx : Nat)
  /-- Raised by `RP` with no LMCM active (60_exceptions.md R206). Safe, for the same reason. -/
  | pixelReadWhenInactive
  deriving DecidableEq, Repr

/-- The reasons for which the engine refuses a call (60_exceptions.md R202). -/
inductive RefuseReason
  /-- A start in mode OTHER (40_dispatch.md R109). Safe. -/
  | noBitmapLayout
  /-- A start while an operation is active, under `RESTART_POLICY = refuse` (40_dispatch.md R106). Safe. -/
  | restartWhileActive
  /-- A RESTORE of a record that will not do (40_dispatch.md R119). Safe. -/
  | badRecord
  deriving DecidableEq, Repr

/-- Why a step has no meaning. -/
inductive Refusal
  /-- Answered by every host call on a state that holds the refusal mark: the state is stuck
  (60_exceptions.md R204). Safe. -/
  | stuck (reason : RefuseReason)
  /-- Answered by a word of kind 7 to 15, which the decoder refuses because it names no host call
  (30_encoding.md R90, R92). Safe. -/
  | reservedKind
  /-- Answered by an arm of the dispatch whose instruction has no meaning yet. Safe. -/
  | notModelled (mnemonic : String)
  deriving DecidableEq, Repr

/-- One host call as the host issues it: the word, and beside it the virtual time and the blanking flag
(30_encoding.md R90, 40_dispatch.md R120, R121). -/
structure HostCall where
  word : HostWord
  time : Nat
  blank : Bool
  deriving DecidableEq, Repr

/-- What the world outside does to the engine, one input a step. -/
inductive Input
  /-- A host call (00_scope.md R6). -/
  | call (c : HostCall)
  /-- The environment writes a VRAM byte between two calls (20_memory.md R52). -/
  | vramWrite (a : VramAddr) (v : Byte)
  /-- A reset event (70_reset_and_hazards.md R220). -/
  | reset
  deriving DecidableEq, Repr

/-- Video memory: address and byte, addresses rising, no entry equal to what an unlisted address reads as
(20_memory.md R50, log 5). -/
abbrev Memory := List Host.Cell

/-- The whole state: the engine state of 10_state.md R39, video memory, the world around the engine, and
the model's own two fields (INVENTORY.md, State). -/
structure State where
  /-- `reg[0..14]` (10_state.md R20). -/
  regs : Regs
  /-- `st.TR` (10_state.md R24). -/
  tr : Bool
  /-- `st.BD` (10_state.md R24). -/
  bd : Bool
  /-- `st.CE` (10_state.md R24). -/
  ce : Bool
  /-- `st.borderX` (10_state.md R28). -/
  borderX : Int
  /-- `st.mode` (10_state.md R29). -/
  mode : Mode
  /-- `st.geom` (10_state.md R30). -/
  geom : Option Geom
  /-- `st.lastCost` (10_state.md R33). -/
  lastCost : Nat
  /-- `st.refused`, with its reason (10_state.md R36, log 3). -/
  refused : Option RefuseReason
  /-- `st.fault` (10_state.md R36). -/
  fault : Option Fault
  /-- Video memory (20_memory.md R50). -/
  vram : Memory
  /-- The record the most recent SAVE took (40_dispatch.md R118, log 10). -/
  saved : Option Record
  /-- The virtual time given with the most recent call (40_dispatch.md R120, log 11). -/
  time : Nat
  /-- The blanking flag given with the most recent call (40_dispatch.md R121, log 11). -/
  blank : Bool
  /-- Inputs still to come, the next one first (log 1). -/
  inbox : List Input
  /-- The bytes RS and RP returned, oldest first (60_exceptions.md R200, log 12). -/
  replies : List Byte
  /-- MODEL's own: the OPEN parameters (00_scope.md R7, log 9). -/
  params : Config.Params
  /-- MODEL's own: the number of free values drawn (60_exceptions.md R203, log 7). -/
  draws : Nat
  deriving DecidableEq, Repr

/-- The machine after reset: 10_state.md R37 and 70_reset_and_hazards.md R220; the fields the spec gives
no value are named in logs 1, 5, 7, 9, 10, 11 and 12. -/
def State.reset : State :=
  { regs := Vector.replicate 15 0x00
    tr := false
    bd := false
    ce := false
    borderX := 0
    mode := .other
    geom := none
    lastCost := 0
    refused := none
    fault := none
    vram := []
    saved := none
    time := 0
    blank := false
    inbox := []
    replies := []
    params := Config.defaultParams
    draws := 0 }

end Sys2Proof.Machine
end

