-- ==== Sys2Proof/Machine/Operands.lean ====
section
/-! DEFINITION. Every operand form: register-pair fields, direction bits, layout parameters, the address
function, bit placement, byte units, and the geometry snapshot. -/

namespace Sys2Proof

/-! ## Layout parameters (20_memory.md R54) -/

/-- Bits per pixel. -/
def Layout.bitsPerPixel : Layout → Nat
  | .l0 => 4
  | .l1 => 2
  | .l2 => 4
  | .l3 => 8

/-- `S = log2 PPB`, the number of X bits that select a pixel within its byte. -/
def Layout.byteShift : Layout → Nat
  | .l0 => 1
  | .l1 => 2
  | .l2 => 1
  | .l3 => 0

/-- `PPB`, pixels per byte. -/
def Layout.pixelsPerByte (l : Layout) : Nat := 2 ^ l.byteShift

/-- `MX`, the pixel width. -/
def Layout.pageWidth : Layout → Machine.PageWidth
  | .l0 => .w256
  | .l1 => .w512
  | .l2 => .w512
  | .l3 => .w256

/-- `H`, the number of rows. -/
def Layout.rows : Layout → Nat
  | .l0 => 1024
  | .l1 => 1024
  | .l2 => 512
  | .l3 => 512

/-- `PM`, the pixel mask. -/
def Layout.pixelMask : Layout → Byte
  | .l0 => 0x0F
  | .l1 => 0x03
  | .l2 => 0x0F
  | .l3 => 0xFF

/-- The page width in pixels. -/
def Machine.PageWidth.toNat : Machine.PageWidth → Nat
  | .w256 => 256
  | .w512 => 512

/-- `WB`, bytes per row. -/
def Layout.bytesPerRow (l : Layout) : Nat := l.pageWidth.toNat / l.pixelsPerByte

/-- `a & (2^k - 1)` on an integer, as a VRAM-address word (00_scope.md R9). -/
def lowBits (k : Nat) (a : Int) : VramAddr := (BitVec.ofInt k a).setWidth 17

/-- The address function: linear (20_memory.md R55), or interleaved in layouts 2 and 3 when
PLANAR_G6G7 is set (R56). -/
def Layout.address (l : Layout) (planar : Bool) (x y : Int) : VramAddr :=
  match l with
  | .l0 => (lowBits 10 y <<< 7) ||| (lowBits 8 x >>> 1)
  | .l1 => (lowBits 10 y <<< 7) ||| (lowBits 9 x >>> 2)
  | .l2 =>
    if planar then ((lowBits 2 x &&& 2) <<< 15) ||| (lowBits 9 y <<< 7) ||| (lowBits 9 x >>> 2)
    else (lowBits 9 y <<< 8) ||| (lowBits 9 x >>> 1)
  | .l3 =>
    if planar then (lowBits 1 x <<< 16) ||| (lowBits 9 y <<< 7) ||| (lowBits 8 x >>> 1)
    else (lowBits 9 y <<< 8) ||| lowBits 8 x

/-- Intra-byte bit placement: how far the pixel of column `x` stands from bit 0 (20_memory.md R57). -/
def Layout.bitOffset (l : Layout) (x : Int) : Nat :=
  match l with
  | .l0 => 4 * (1 - (lowBits 1 x).toNat)
  | .l1 => 2 * (3 - (lowBits 2 x).toNat)
  | .l2 => 4 * (1 - (lowBits 1 x).toNat)
  | .l3 => 0

/-- An X coordinate in byte columns, `x >> S` (44_high_speed_moves.md R180). -/
def Layout.toByteColumn (l : Layout) (x : Int) : Int := x / 2 ^ l.byteShift

/-- The first pixel column of a byte column, `bx << S` (20_memory.md R63). -/
def Layout.toPixelColumn (l : Layout) (bx : Int) : Int := bx * 2 ^ l.byteShift

/-- The address of the whole byte in byte column `bx` of row `y` (20_memory.md R63, R64). -/
def Layout.byteAddress (l : Layout) (planar : Bool) (bx y : Int) : VramAddr :=
  l.address planar (l.toPixelColumn bx) y

/-- A row length in bytes, `NX >> S` (44_high_speed_moves.md R180). -/
def Layout.byteCount (l : Layout) (nx : Fin 512) : Fin 512 :=
  ⟨nx.val / 2 ^ l.byteShift, Nat.lt_of_le_of_lt (Nat.div_le_self _ _) nx.isLt⟩

/-! ## Opcode classes (40_dispatch.md R103, R124) -/

/-- NOOP: the codes of the no-op handler. -/
def Opcode.isNoop : Opcode → Bool
  | .stop | .unknown1 | .unknown2 | .unknown3 | .unknown4 | .unknown5 => true
  | .srch | .line | .lmmv | .lmmm | .lmcm | .lmmc | .hmmv | .hmmm | .ymmm | .hmmc => false

/-- TRANSFER: the step-wise codes (40_dispatch.md R111). -/
def Opcode.isTransfer : Opcode → Bool
  | .lmcm | .lmmc | .hmmc => true
  | .stop | .unknown1 | .unknown2 | .unknown3 | .unknown4 | .unknown5 => false
  | .srch | .line | .lmmv | .lmmm | .hmmv | .hmmm | .ymmm => false

/-- The eight rectangle opcodes, to which the degenerate test applies (40_dispatch.md R124). -/
def Opcode.isRectangle : Opcode → Bool
  | .lmmv | .lmmm | .lmcm | .lmmc | .hmmv | .hmmm | .ymmm | .hmmc => true
  | .stop | .unknown1 | .unknown2 | .unknown3 | .unknown4 | .unknown5 | .srch | .line => false

namespace Machine

/-! ## Register fields (30_encoding.md R81 to R83) -/

/-- `SX`, 9 bits. -/
def Regs.sx (r : Regs) : BitVec 9 := r[1].extractLsb' 0 1 ++ r[0]
/-- `SY`, 10 bits. -/
def Regs.sy (r : Regs) : BitVec 10 := r[3].extractLsb' 0 2 ++ r[2]
/-- `DX`, 9 bits. -/
def Regs.dx (r : Regs) : BitVec 9 := r[5].extractLsb' 0 1 ++ r[4]
/-- `DY`, 10 bits. -/
def Regs.dy (r : Regs) : BitVec 10 := r[7].extractLsb' 0 2 ++ r[6]
/-- `NX`, 9 bits. -/
def Regs.nx (r : Regs) : BitVec 9 := r[9].extractLsb' 0 1 ++ r[8]
/-- `NY`, 10 bits. -/
def Regs.ny (r : Regs) : BitVec 10 := r[11].extractLsb' 0 2 ++ r[10]
/-- `CL` (R82). -/
def Regs.cl (r : Regs) : Byte := r[12]
/-- MAJ, bit 0 of ARG (R83). -/
def Regs.maj (r : Regs) : Bool := r[13].getLsbD 0
/-- EQ, bit 1 of ARG (R83). -/
def Regs.eq (r : Regs) : Bool := r[13].getLsbD 1
/-- DIX, bit 2 of ARG (R83). -/
def Regs.dix (r : Regs) : Bool := r[13].getLsbD 2
/-- DIY, bit 3 of ARG (R83). -/
def Regs.diy (r : Regs) : Bool := r[13].getLsbD 3

/-- A direction bit: 0 gives `+1`, 1 gives `-1` (R83). -/
def dirOfBit (b : Bool) : Dir := if b then .minus else .plus

/-- The value of a direction (00_scope.md R11). -/
def Dir.toInt : Dir → Int
  | .plus => 1
  | .minus => -1

/-- `Snapshot(CM, LO)`: the geometry from the register file at start (40_dispatch.md R105). -/
def snapshot (cm : Opcode) (lo : BitVec 4) (l : Layout) (r : Regs) : Geom :=
  { cm := cm
    lo := lo
    cl := r.cl
    gl := l
    mx := l.pageWidth
    tx := dirOfBit r.dix
    ty := dirOfBit r.diy
    sx := r.sx.toNat
    sy := r.sy.toNat
    dx := r.dx.toNat
    dy := r.dy.toNat
    nx := r.nx.toFin
    ny := r.ny.toFin
    asx := r.sx.toNat
    adx := r.dx.toNat
    anx := r.nx.toFin
    opc := 0 }

/-- The display mode a MODE word notifies: 0 to 3 a layout, any other value OTHER (30_encoding.md R90,
40_dispatch.md R115). -/
def modeOfByte (m : Byte) : Mode :=
  match m.toNat with
  | 0 => .layout .l0
  | 1 => .layout .l1
  | 2 => .layout .l2
  | 3 => .layout .l3
  | _ => .other

end Machine

end Sys2Proof
end

