-- ==== Sys2Proof/Machine/Flags.lean ====
section
/-! DEFINITION. The status byte and the logical operations. -/

namespace Sys2Proof.Machine

/-- The status byte: TR at bit 7, BD at bit 4, CE at bit 0, all other bits 0 (30_encoding.md R88). -/
def statusByte (tr bd ce : Bool) : Byte :=
  ((BitVec.ofBool tr).setWidth 8 <<< 7) ||| ((BitVec.ofBool bd).setWidth 8 <<< 4)
    ||| (BitVec.ofBool ce).setWidth 8

/-- TR of a status byte. -/
def statusTr (b : Byte) : Bool := b.getLsbD 7
/-- BD of a status byte. -/
def statusBd (b : Byte) : Bool := b.getLsbD 4
/-- CE of a status byte. -/
def statusCe (b : Byte) : Bool := b.getLsbD 0

/-- `lo[3]`: the transparent flag (20_memory.md R60, R62). -/
def isTransparent (lo : BitVec 4) : Bool := lo.getLsbD 3

/-- `LogOp(lo[2:0], sc, dc, pm)` (20_memory.md R60, R61). No value for the reserved codes 5, 6 and 7,
whose result is drawn. -/
def logOp (lo : BitVec 4) (sc dc pm : Byte) : Option Byte :=
  match (lo.extractLsb' 0 3).toNat with
  | 0 => some sc
  | 1 => some (sc &&& dc)
  | 2 => some (sc ||| dc)
  | 3 => some (sc ^^^ dc)
  | 4 => some ((0xFF ^^^ sc) &&& pm)
  | _ => none

end Sys2Proof.Machine
end

