-- ==== Sys2Proof/Machine/Ops.lean ====
section
/-! DEFINITION. The named operations over memory, registers and the engine state that the meanings share. -/

namespace Sys2Proof.Machine

/-! ## Memory (20_memory.md R50, R67) -/

/-- What an address that is not listed reads as. The spec leaves VRAM unspecified at reset (10_state.md
R37); DESIGN CHOICE 0x00 (log 5). -/
def Memory.unlisted : Byte := 0x00

/-- `MemRead(a, 1)` over the list of cells, whose addresses rise. -/
def Memory.readCell : Memory → Nat → Byte
  | [], _ => Memory.unlisted
  | (k, v) :: m, a => if a < k then Memory.unlisted else if a = k then v else Memory.readCell m a

/-- `MemWrite(a, 1, v)` over the list of cells: writing what an unlisted address reads as removes the
entry, so the form stays canonical. -/
def Memory.writeCell : Memory → Nat → Byte → Memory
  | [], a, v => if v = Memory.unlisted then [] else [(a, v)]
  | (k, w) :: m, a, v =>
    if a < k then (if v = Memory.unlisted then (k, w) :: m else (a, v) :: (k, w) :: m)
    else if a = k then (if v = Memory.unlisted then m else (a, v) :: m)
    else (k, w) :: Memory.writeCell m a v

/-- Read the byte at a VRAM address (00_scope.md R10). -/
def Memory.read (m : Memory) (a : VramAddr) : Byte := Memory.readCell m a.toNat

/-- Write the byte at a VRAM address (00_scope.md R10). -/
def Memory.write (m : Memory) (a : VramAddr) (v : Byte) : Memory := Memory.writeCell m a.toNat v

/-- The canonical form: addresses strictly rising and inside VRAM, no entry equal to what an unlisted
address reads as. -/
abbrev Memory.wf (m : Memory) : Prop :=
  m.Pairwise (fun c d => c.1 < d.1) ∧ ∀ c ∈ m, c.1 < Config.vramSize ∧ c.2 ≠ Memory.unlisted

/-! ## Marks (60_exceptions.md R201, R202, R204) -/

/-- `raise Fault(reason)`: sets the fault mark and changes nothing else (60_exceptions.md R201). -/
def State.raiseFault (s : State) (reason : Fault) : State :=
  { s with fault := some reason }

/-- `refuse(reason)`: sets the refusal mark and changes nothing else (60_exceptions.md R202). -/
def State.refuse (s : State) (reason : RefuseReason) : State :=
  { s with refused := some reason }

/-- A host call with the given effect. Once a mark is set "no host call has a step" (60_exceptions.md
R204), and that check comes before every other (R208). -/
def hostCall (s : State) (effect : State → State) : Host.Outcome State Fault Refusal :=
  match s.fault, s.refused with
  | some reason, _ => .fault reason
  | none, some reason => .refused (.stuck reason)
  | none, none => .next (effect s)

/-! ## Loops, registers, cost, completion -/

/-- `for i in 0 .. n-1`, in that order, zero times when `n = 0` (00_scope.md R11). -/
def forUpTo {α : Type} : Nat → (Nat → α → α) → α → α
  | 0, _, a => a
  | n + 1, body, a => body n (forUpTo n body a)

/-- `reg[i] <- v` (00_scope.md R10, 40_dispatch.md R100). -/
def State.writeReg (s : State) (i : Fin 15) (v : Byte) : State :=
  { s with regs := s.regs.set i v }

/-- `cost(k)`: adds the timing-table entry of the active operation's layout to its counter
(40_dispatch.md R122). -/
def State.cost (s : State) (k : CostClass) : State :=
  { s with geom := s.geom.map fun g => { g with opc := g.opc + Config.costTable k g.gl s.blank } }

/-- The counter `Finish()` copies (40_dispatch.md R112). With no geometry, which no run reaches at a
`Finish()` (10_state.md R25), there is none and the last cost stays (log 23). -/
def State.counter (s : State) : Nat :=
  match s.geom with
  | some g => g.opc
  | none => s.lastCost

/-- `Finish()` (40_dispatch.md R112). -/
def State.finish (s : State) : State :=
  { s with
    lastCost := s.counter
    geom := none
    ce := false
    tr := false }

/-! ## Pixel accessor (20_memory.md R58, R59, R63, R64) -/

/-- `GetPixel(L, x, y)` (20_memory.md R58). -/
def State.getPixel (s : State) (l : Layout) (x y : Int) : Byte :=
  (s.vram.read (l.address s.params.planarG6G7 x y) >>> l.bitOffset x) &&& l.pixelMask

/-- The byte `b` with the pixel of column `x` replaced by `r`, every other bit kept (20_memory.md R59). -/
def mergePixel (l : Layout) (x : Int) (b r : Byte) : Byte :=
  (b &&& (0xFF ^^^ (l.pixelMask <<< l.bitOffset x))) ||| (r <<< l.bitOffset x)

/-- `SetPixel(L, x, y, c, lo)` (20_memory.md R59). A transparent code on colour 0 makes no access (R62); a
reserved code draws its result, any value in `0 .. PM` (R60, 60_exceptions.md R203, log 7). -/
def State.setPixel (s : State) (l : Layout) (x y : Int) (c : Byte) (lo : BitVec 4) : State :=
  let a := l.address s.params.planarG6G7 x y
  let sc := c &&& l.pixelMask
  if isTransparent lo ∧ sc = 0 then s
  else
    let b := s.vram.read a
    let dc := (b >>> l.bitOffset x) &&& l.pixelMask
    match logOp lo sc dc l.pixelMask with
    | some r => { s with vram := s.vram.write a (mergePixel l x b r) }
    | none =>
      { s with
        vram := s.vram.write a (mergePixel l x b (Config.freePixel s.draws &&& l.pixelMask))
        draws := s.draws + 1 }

/-- `ReadByteAt(L, bx, y)` (20_memory.md R63). -/
def State.readByteAt (s : State) (l : Layout) (bx y : Int) : Byte :=
  s.vram.read (l.byteAddress s.params.planarG6G7 bx y)

/-- `WriteByteAt(L, bx, y, v)` (20_memory.md R64). -/
def State.writeByteAt (s : State) (l : Layout) (bx y : Int) (v : Byte) : State :=
  { s with vram := s.vram.write (l.byteAddress s.params.planarG6G7 bx y) v }

/-! ## Starting an operation (40_dispatch.md R104 to R112) -/

/-- A start with a NOOP code: an active operation ends, and the last cost becomes 0 (40_dispatch.md R104,
R107). -/
def State.noopStart (s : State) : State :=
  { (if s.ce then s.finish else s) with lastCost := 0 }

/-- The part of `Start` after the checks of CE: the mode check, the snapshot, the degenerate test, the
handler (40_dispatch.md R104, R109, R124, R126). -/
def State.beginOperation (s : State) (op : Opcode) (lo : BitVec 4) (handler : Geom → State → State) :
    State :=
  match s.mode with
  | .other => s.refuse .noBitmapLayout
  | .layout l =>
    let g := snapshot op lo l s.regs
    let s := { s with tr := false, geom := some g, ce := true }
    if op.isRectangle ∧ (g.nx.val = 0 ∨ g.ny.val = 0) then s.finish else handler g s

/-- A register-14 write: stores the command byte, then `Start(v)` (40_dispatch.md R100, R104). -/
def State.start (s : State) (op : Opcode) (lo : BitVec 4) (handler : Geom → State → State) : State :=
  let s := s.writeReg 14 (commandByte op lo)
  if op.isNoop then s.noopStart
  else if s.ce ∧ s.params.restartPolicy = .refuse then s.refuse .restartWhileActive
  else (if s.ce then s.finish else s).beginOperation op lo handler

/-- The no-op handler's place in `State.start`: a NOOP code never reaches a handler. -/
def noHandler (_ : Geom) (s : State) : State := s

/-- The start of a transfer operation: TR is set, CE and the geometry stay (40_dispatch.md R111). -/
def State.readyForTransfer (s : State) : State :=
  { s with tr := true }

/-! ## Advancing a transfer (43_logical_moves.md R166, R169; 44_high_speed_moves.md R188) -/

/-- One less, and 0 of 0, which no run counts down (log 23). -/
def countDown {n : Nat} (k : Fin n) : Fin n :=
  ⟨k.val - 1, Nat.lt_of_le_of_lt (Nat.sub_le _ _) k.isLt⟩

/-- The step ends its row. -/
def Geom.endsRow (g : Geom) : Bool := (countDown g.anx).val = 0

/-- The step is the operation's last. -/
def Geom.endsOperation (g : Geom) : Bool := g.endsRow && (countDown g.ny).val = 0

/-- Move the source position on by one pixel, to the next row at a row's end (43_logical_moves.md R166). -/
def Geom.advanceSource (g : Geom) : Geom :=
  if g.endsRow then
    { g with ny := countDown g.ny, sy := g.sy + g.ty.toInt, asx := g.sx, anx := g.nx }
  else { g with asx := g.asx + g.tx.toInt, anx := countDown g.anx }

/-- Move the destination position on by one pixel or byte (43_logical_moves.md R169,
44_high_speed_moves.md R188). -/
def Geom.advanceDest (g : Geom) : Geom :=
  if g.endsRow then
    { g with ny := countDown g.ny, dy := g.dy + g.ty.toInt, adx := g.dx, anx := g.nx }
  else { g with adx := g.adx + g.tx.toInt, anx := countDown g.anx }

/-- The end of a transfer step: the position moves on, and the last step finishes. -/
def State.advance (s : State) (move : Geom → Geom) : State :=
  match s.geom with
  | none => s
  | some g =>
    let s := { s with geom := some (move g) }
    if g.endsOperation then s.finish else s

/-! ## Replies and the persisted-state record (40_dispatch.md R113, R118, R119) -/

/-- The call returns the byte `b`. -/
def State.reply (s : State) (b : Byte) : State :=
  { s with replies := s.replies ++ [b] }

/-- The status byte `readStatus` returns (40_dispatch.md R113). -/
def State.status (s : State) : Byte := statusByte s.tr s.bd s.ce

/-- The persisted-state record of a state, version 1 (40_dispatch.md R118). -/
def State.record (s : State) : Record :=
  { version := 1
    regs := s.regs
    status := s.status
    borderX := s.borderX
    mode := s.mode
    geom := s.geom
    lastCost := s.lastCost }

/-- 10_state.md R32: the ranges of a transfer operation's position. -/
def Geom.inRange (g : Geom) : Bool :=
  (-511 ≤ g.asx ∧ g.asx ≤ 1022) ∧ (-511 ≤ g.adx ∧ g.adx ≤ 1022) ∧
    (-1023 ≤ g.sy ∧ g.sy ≤ 2046) ∧ (-1023 ≤ g.dy ∧ g.dy ≤ 2046)

/-- Pixels or bytes remain to be moved (10_state.md R25: "an unfinished operation exists"). -/
def Geom.unfinished (g : Geom) : Bool :=
  g.nx.val ≠ 0 ∧ g.anx.val ≠ 0 ∧ g.ny.val ≠ 0

/-- An operation is active and is a transfer (10_state.md R26). -/
def transferActive (geom : Option Geom) : Bool :=
  match geom with
  | some g => g.cm.isTransfer
  | none => false

/-- The record keeps 10_state.md R32, and what it holds of a transfer is unfinished (R25). -/
def geometryAcceptable (geom : Option Geom) : Bool :=
  match geom with
  | some g => !g.cm.isTransfer || (g.inRange && g.unfinished)
  | none => true

/-- RESTORE accepts the record: version 1, and none of 10_state.md R25, R26, R32 broken (40_dispatch.md
R119, log 10). -/
def Record.acceptable (r : Record) : Bool :=
  r.version == 1 && statusCe r.status == r.geom.isSome && statusTr r.status == transferActive r.geom
    && geometryAcceptable r.geom

/-- Every field of the record replaced, nothing else (40_dispatch.md R119). -/
def State.load (s : State) (r : Record) : State :=
  { s with
    regs := r.regs
    tr := statusTr r.status
    bd := statusBd r.status
    ce := statusCe r.status
    borderX := r.borderX
    mode := r.mode
    geom := r.geom
    lastCost := r.lastCost }

/-! ## Inputs that are not host calls, and taking a host call -/

/-- A reset event: every field of the engine state at its reset value, VRAM and everything outside the
engine untouched (70_reset_and_hazards.md R220, 10_state.md R39). A mark that is set stays: "neither mark is
ever cleared" (60_exceptions.md R204, log 4). -/
def State.resetEngine (s : State) : State :=
  { s with
    regs := State.reset.regs
    tr := State.reset.tr
    bd := State.reset.bd
    ce := State.reset.ce
    borderX := State.reset.borderX
    mode := State.reset.mode
    geom := State.reset.geom
    lastCost := State.reset.lastCost }

/-- The environment writes one VRAM byte (20_memory.md R52). -/
def State.environmentWrite (s : State) (a : VramAddr) (v : Byte) : State :=
  { s with vram := s.vram.write a v }

/-- A host call is taken from the inputs: its time and blanking flag become those of the call in progress
(40_dispatch.md R120, R121). -/
def State.takeCall (s : State) (c : HostCall) (rest : List Input) : State :=
  { s with inbox := rest, time := c.time, blank := c.blank }

/-- An input that is no host call is taken from the inputs. -/
def State.takeInput (s : State) (rest : List Input) : State :=
  { s with inbox := rest }

end Sys2Proof.Machine
end

