-- ==== Sys2Proof/Machine/LogicalMoves.lean ====
section
/-! DEFINITION. The logical moves LMMV, LMMM, LMCM and LMMC (43_logical_moves.md). -/

namespace Sys2Proof.Machine

/-- `a + i * T`: a coordinate `i` steps on from `a` (43_logical_moves.md R161). -/
def stepped (a : Int) (i : Nat) (d : Dir) : Int := a + i * d.toInt

/-- `Lmmv()`: every pixel of the rectangle, row by row (43_logical_moves.md R160, R161). -/
def logicalFill (g : Geom) (s : State) : State :=
  (forUpTo g.ny.val (fun j =>
    forUpTo g.nx.val (fun i s =>
      (s.cost .lmmv).setPixel g.gl (stepped g.dx i g.tx) (stepped g.dy j g.ty) g.cl g.lo)) s).finish

/-- `Lmmm()`: one pixel read and composited at a time, in the order of the signs (43_logical_moves.md
R162, R163). -/
def logicalCopy (g : Geom) (s : State) : State :=
  (forUpTo g.ny.val (fun j =>
    forUpTo g.nx.val (fun i s =>
      let s := s.cost .lmmm
      let p := s.getPixel g.gl (stepped g.sx i g.tx) (stepped g.sy j g.ty)
      s.setPixel g.gl (stepped g.dx i g.tx) (stepped g.dy j g.ty) p g.lo)) s).finish

/-- `LmcmStep()`: the next source pixel is returned, zero above its bits, and the position moves on
(43_logical_moves.md R166, R167). -/
def lmcmStep (g : Geom) (s : State) : State :=
  let s := s.cost .lmcm
  (s.reply (s.getPixel g.gl g.asx g.sy)).advance Geom.advanceSource

/-- `LmmcStep(v)`: the byte is composited as a pixel and the position moves on (43_logical_moves.md R169). -/
def lmmcStep (g : Geom) (v : Byte) (s : State) : State :=
  ((s.cost .lmmc).setPixel g.gl g.adx g.dy v g.lo).advance Geom.advanceDest

/-- LMMV (43_logical_moves.md R160). -/
def execCmdLmmv (lo : BitVec 4) (s : State) : Host.Outcome State Fault Refusal :=
  hostCall s fun s => s.start .lmmv lo logicalFill

/-- LMMM (43_logical_moves.md R162). -/
def execCmdLmmm (lo : BitVec 4) (s : State) : Host.Outcome State Fault Refusal :=
  hostCall s fun s => s.start .lmmm lo logicalCopy

/-- LMCM, start: a pixel is available, none is read yet (43_logical_moves.md R165, R167). -/
def execCmdLmcm (lo : BitVec 4) (s : State) : Host.Outcome State Fault Refusal :=
  hostCall s fun s => s.start .lmcm lo fun _ s => s.readyForTransfer

/-- LMMC, start: ready for the first pixel (43_logical_moves.md R168, R170). -/
def execCmdLmmc (lo : BitVec 4) (s : State) : Host.Outcome State Fault Refusal :=
  hostCall s fun s => s.start .lmmc lo fun _ s => s.readyForTransfer

end Sys2Proof.Machine
end

