-- ==== Sys2Proof/Machine/HostCalls.lean ====
section
/-! DEFINITION. The host calls that are no register writes, and the reserved words (40_dispatch.md R113 to
R119, 30_encoding.md R90). -/

namespace Sys2Proof.Machine

/-- RS: returns the status byte, "has no side effect" (40_dispatch.md R113). -/
def execRs (s : State) : Host.Outcome State Fault Refusal :=
  hostCall s fun s => s.reply s.status

/-- `readPixelTransfer` (40_dispatch.md R114): a step of an active LMCM, otherwise a fault (60_exceptions.md
R206). -/
def readPixel (s : State) : State :=
  match s.geom with
  | none => s.raiseFault .pixelReadWhenInactive
  | some g =>
    if s.ce ∧ g.cm = .lmcm then lmcmStep g s else s.raiseFault .pixelReadWhenInactive

/-- RP (40_dispatch.md R114). -/
def execRp (s : State) : Host.Outcome State Fault Refusal :=
  hostCall s readPixel

/-- MODE: the layout of later starts; an active operation keeps its own (40_dispatch.md R115, R116). -/
def execMode (m : Byte) (s : State) : Host.Outcome State Fault Refusal :=
  hostCall s fun s => { s with mode := modeOfByte m }

/-- VNOTE: no effect (40_dispatch.md R117). -/
def execVnote (s : State) : Host.Outcome State Fault Refusal :=
  hostCall s fun s => s

/-- SAVE: the host takes the record; no side effect on the engine (40_dispatch.md R118). -/
def execSave (s : State) : Host.Outcome State Fault Refusal :=
  hostCall s fun s => { s with saved := some s.record }

/-- The record of the most recent SAVE replaces the engine's fields, or is refused (40_dispatch.md R119).
Where no SAVE has been taken there is no record, and the call is refused too (log 10). -/
def restoreSaved (s : State) : State :=
  match s.saved with
  | some r => if r.acceptable then s.load r else s.refuse .badRecord
  | none => s.refuse .badRecord

/-- RESTORE (40_dispatch.md R119). -/
def execRestore (s : State) : Host.Outcome State Fault Refusal :=
  hostCall s restoreSaved

/-- A word of kind 7: "a decoder of this notation refuses them, because they name no host call"
(30_encoding.md R90). -/
def execReservedKind7 (_ : State) : Host.Outcome State Fault Refusal :=
  .refused .reservedKind

/-- A word of kind 8 to 15, refused for the same reason (30_encoding.md R90). -/
def execReservedKinds8F (_ : State) : Host.Outcome State Fault Refusal :=
  .refused .reservedKind

end Sys2Proof.Machine
end

