-- ==== Sys2Proof/Machine/Line.lean ====
section
/-! DEFINITION. LINE, the Bresenham line (42_line.md). -/

namespace Sys2Proof.Machine

/-- The local variables of `Line()`: the position and the error term (42_line.md R151). -/
structure LinePos where
  x : Int
  y : Int
  e : Int
  deriving DecidableEq, Repr

/-- One step along the major axis, NY off the error term, and where that goes below 0 the correction and a
step along the minor axis (42_line.md R151). -/
def LinePos.next (g : Geom) (maj : Bool) (p : LinePos) : LinePos :=
  let e := p.e - g.ny.val
  let x := if maj then p.x else p.x + g.tx.toInt
  let y := if maj then p.y + g.ty.toInt else p.y
  if e < 0 then
    { x := if maj then x + g.tx.toInt else x
      y := if maj then y else y + g.ty.toInt
      e := e + g.nx.val }
  else { x := x, y := y, e := e }

/-- The start point and `(NX - 1) >> 1`, which is -1 for NX = 0 (42_line.md R151). -/
def lineStart (g : Geom) : LinePos :=
  { x := g.dx, y := g.dy, e := ((g.nx.val : Int) - 1) / 2 }

/-- Draw from `p` on, with `n` steps to go: `n + 1` pixels (42_line.md R151, R152). -/
def lineFrom (g : Geom) (maj : Bool) : Nat → LinePos → State → State
  | 0, p, s => (s.cost .line).setPixel g.gl p.x p.y g.cl g.lo
  | n + 1, p, s =>
    lineFrom g maj n (p.next g maj) ((s.cost .line).setPixel g.gl p.x p.y g.cl g.lo)

/-- `Line()` (42_line.md R151). -/
def line (g : Geom) (s : State) : State :=
  (lineFrom g s.regs.maj g.nx.val (lineStart g) s).finish

/-- LINE (42_line.md R151). -/
def execCmdLine (lo : BitVec 4) (s : State) : Host.Outcome State Fault Refusal :=
  hostCall s fun s => s.start .line lo line

end Sys2Proof.Machine
end

