-- ==== Sys2Proof/Machine/NoOps.lean ====
section
/-! DEFINITION. The no-op handler: STOP and the unknown codes (40_dispatch.md R107, R108). -/

namespace Sys2Proof.Machine

/-- STOP: ends an active transfer, touches no VRAM (40_dispatch.md R107). -/
def execCmdStop (lo : BitVec 4) (s : State) : Host.Outcome State Fault Refusal :=
  hostCall s fun s => s.start .stop lo noHandler

/-- The unknown code 0x1: "falls back to the no-op handler; never fatal" (40_dispatch.md R108). -/
def execCmdUnknown1 (lo : BitVec 4) (s : State) : Host.Outcome State Fault Refusal :=
  hostCall s fun s => s.start .unknown1 lo noHandler

/-- The unknown code 0x2: "falls back to the no-op handler; never fatal" (40_dispatch.md R108). -/
def execCmdUnknown2 (lo : BitVec 4) (s : State) : Host.Outcome State Fault Refusal :=
  hostCall s fun s => s.start .unknown2 lo noHandler

/-- The unknown code 0x3: "falls back to the no-op handler; never fatal" (40_dispatch.md R108). -/
def execCmdUnknown3 (lo : BitVec 4) (s : State) : Host.Outcome State Fault Refusal :=
  hostCall s fun s => s.start .unknown3 lo noHandler

/-- The unknown code 0x4: "falls back to the no-op handler; never fatal" (40_dispatch.md R108). -/
def execCmdUnknown4 (lo : BitVec 4) (s : State) : Host.Outcome State Fault Refusal :=
  hostCall s fun s => s.start .unknown4 lo noHandler

/-- The unknown code 0x5: "falls back to the no-op handler; never fatal" (40_dispatch.md R108). -/
def execCmdUnknown5 (lo : BitVec 4) (s : State) : Host.Outcome State Fault Refusal :=
  hostCall s fun s => s.start .unknown5 lo noHandler

end Sys2Proof.Machine
end

