-- ==== Sys2Proof/Machine/HighSpeedMoves.lean ====
section
/-! DEFINITION. The high-speed moves HMMV, HMMM, YMMM and HMMC (44_high_speed_moves.md). -/

namespace Sys2Proof.Machine

/-- `Hmmv()`: every byte of the rectangle (44_high_speed_moves.md R180 to R182). -/
def byteFill (g : Geom) (s : State) : State :=
  let bdx := g.gl.toByteColumn g.dx
  let bnx := (g.gl.byteCount g.nx).val
  if bnx = 0 then s.finish
  else
    (forUpTo g.ny.val (fun j =>
      forUpTo bnx (fun i s =>
        (s.cost .hmmv).writeByteAt g.gl (stepped bdx i g.tx) (stepped g.dy j g.ty) g.cl)) s).finish

/-- `Hmmm()`: one byte read and written at a time (44_high_speed_moves.md R183). -/
def byteCopy (g : Geom) (s : State) : State :=
  let bsx := g.gl.toByteColumn g.sx
  let bdx := g.gl.toByteColumn g.dx
  let bnx := (g.gl.byteCount g.nx).val
  if bnx = 0 then s.finish
  else
    (forUpTo g.ny.val (fun j =>
      forUpTo bnx (fun i s =>
        let s := s.cost .hmmm
        let b := s.readByteAt g.gl (stepped bsx i g.tx) (stepped g.sy j g.ty)
        s.writeByteAt g.gl (stepped bdx i g.tx) (stepped g.dy j g.ty) b)) s).finish

/-- `bx0`: the byte column of DX, wrapped into the row (44_high_speed_moves.md R184). -/
def columnStart (g : Geom) : Int := g.gl.toByteColumn g.dx % g.gl.bytesPerRow

/-- How many byte columns lie from `bx0` to the edge in direction TX (44_high_speed_moves.md R184). -/
def columnCount (g : Geom) : Nat :=
  match g.tx with
  | .plus => (g.gl.bytesPerRow - columnStart g).toNat
  | .minus => (columnStart g + 1).toNat

/-- `Ymmm()`: every byte column from DX to the edge, the same column in source and destination
(44_high_speed_moves.md R184, R185). -/
def columnCopy (g : Geom) (s : State) : State :=
  (forUpTo g.ny.val (fun j =>
    forUpTo (columnCount g) (fun k s =>
      let bx := stepped (columnStart g) k g.tx
      let s := s.cost .ymmm
      let b := s.readByteAt g.gl bx (stepped g.sy j g.ty)
      s.writeByteAt g.gl bx (stepped g.dy j g.ty) b)) s).finish

/-- The geometry of an HMMC, its destination row in byte units (44_high_speed_moves.md R187). -/
def Geom.inByteUnits (g : Geom) : Geom :=
  { g with
    dx := g.gl.toByteColumn g.dx
    adx := g.gl.toByteColumn g.dx
    nx := g.gl.byteCount g.nx
    anx := g.gl.byteCount g.nx }

/-- `HmmcStart()` (44_high_speed_moves.md R187, R181). -/
def hmmcStart (g : Geom) (s : State) : State :=
  let s := { s with geom := some g.inByteUnits }
  if g.inByteUnits.nx.val = 0 then s.finish else s.readyForTransfer

/-- `HmmcStep(v)`: the whole byte is written and the position moves on (44_high_speed_moves.md R188). -/
def hmmcStep (g : Geom) (v : Byte) (s : State) : State :=
  ((s.cost .hmmc).writeByteAt g.gl g.adx g.dy v).advance Geom.advanceDest

/-- HMMV (44_high_speed_moves.md R182). -/
def execCmdHmmv (lo : BitVec 4) (s : State) : Host.Outcome State Fault Refusal :=
  hostCall s fun s => s.start .hmmv lo byteFill

/-- HMMM (44_high_speed_moves.md R183). -/
def execCmdHmmm (lo : BitVec 4) (s : State) : Host.Outcome State Fault Refusal :=
  hostCall s fun s => s.start .hmmm lo byteCopy

/-- YMMM (44_high_speed_moves.md R184). -/
def execCmdYmmm (lo : BitVec 4) (s : State) : Host.Outcome State Fault Refusal :=
  hostCall s fun s => s.start .ymmm lo columnCopy

/-- HMMC, start (44_high_speed_moves.md R187). -/
def execCmdHmmc (lo : BitVec 4) (s : State) : Host.Outcome State Fault Refusal :=
  hostCall s fun s => s.start .hmmc lo hmmcStart

end Sys2Proof.Machine
end

