-- ==== Sys2Proof/Machine/RegisterWrites.lean ====
section
/-! DEFINITION. The register writes WR 0 to WR 13 and WR 15 (40_dispatch.md R100 to R102, 60_exceptions.md
R205). -/

namespace Sys2Proof.Machine

/-- WR 0: stores the byte (40_dispatch.md R101). -/
def execWrSxl (v : Byte) (s : State) : Host.Outcome State Fault Refusal :=
  hostCall s fun s => s.writeReg 0 v

/-- WR 1: stores the byte (40_dispatch.md R101). -/
def execWrSxh (v : Byte) (s : State) : Host.Outcome State Fault Refusal :=
  hostCall s fun s => s.writeReg 1 v

/-- WR 2: stores the byte (40_dispatch.md R101). -/
def execWrSyl (v : Byte) (s : State) : Host.Outcome State Fault Refusal :=
  hostCall s fun s => s.writeReg 2 v

/-- WR 3: stores the byte (40_dispatch.md R101). -/
def execWrSyh (v : Byte) (s : State) : Host.Outcome State Fault Refusal :=
  hostCall s fun s => s.writeReg 3 v

/-- WR 4: stores the byte (40_dispatch.md R101). -/
def execWrDxl (v : Byte) (s : State) : Host.Outcome State Fault Refusal :=
  hostCall s fun s => s.writeReg 4 v

/-- WR 5: stores the byte (40_dispatch.md R101). -/
def execWrDxh (v : Byte) (s : State) : Host.Outcome State Fault Refusal :=
  hostCall s fun s => s.writeReg 5 v

/-- WR 6: stores the byte (40_dispatch.md R101). -/
def execWrDyl (v : Byte) (s : State) : Host.Outcome State Fault Refusal :=
  hostCall s fun s => s.writeReg 6 v

/-- WR 7: stores the byte (40_dispatch.md R101). -/
def execWrDyh (v : Byte) (s : State) : Host.Outcome State Fault Refusal :=
  hostCall s fun s => s.writeReg 7 v

/-- WR 8: stores the byte (40_dispatch.md R101). -/
def execWrNxl (v : Byte) (s : State) : Host.Outcome State Fault Refusal :=
  hostCall s fun s => s.writeReg 8 v

/-- WR 9: stores the byte (40_dispatch.md R101). -/
def execWrNxh (v : Byte) (s : State) : Host.Outcome State Fault Refusal :=
  hostCall s fun s => s.writeReg 9 v

/-- WR 10: stores the byte (40_dispatch.md R101). -/
def execWrNyl (v : Byte) (s : State) : Host.Outcome State Fault Refusal :=
  hostCall s fun s => s.writeReg 10 v

/-- WR 11: stores the byte (40_dispatch.md R101). -/
def execWrNyh (v : Byte) (s : State) : Host.Outcome State Fault Refusal :=
  hostCall s fun s => s.writeReg 11 v

/-- `PixelWrite(v)`: feeds an active CPU-to-VRAM transfer, and does nothing otherwise (40_dispatch.md
R102). -/
def pixelWrite (v : Byte) (s : State) : State :=
  match s.geom with
  | none => s
  | some g =>
    if s.ce ∧ g.cm = .lmmc then lmmcStep g v s
    else if s.ce ∧ g.cm = .hmmc then hmmcStep g v s
    else s

/-- WR 12: the byte is stored, then it may feed a transfer (40_dispatch.md R100, R102). -/
def execWrClr (v : Byte) (s : State) : Host.Outcome State Fault Refusal :=
  hostCall s fun s => pixelWrite v (s.writeReg 12 v)

/-- WR 13: stores the byte (40_dispatch.md R101). -/
def execWrArg (v : Byte) (s : State) : Host.Outcome State Fault Refusal :=
  hostCall s fun s => s.writeReg 13 v

/-- WR 15: "faults with `RegisterIndexOutOfRange(idx)` before any state changes" (60_exceptions.md R205). -/
def execWr15 (_ : Byte) (s : State) : Host.Outcome State Fault Refusal :=
  hostCall s fun s => s.raiseFault (.registerIndexOutOfRange 15)

end Sys2Proof.Machine
end

