-- ==== Sys2Proof/Machine/Search.lean ====
section
/-! DEFINITION. SRCH, the boundary search (41_search.md). -/

namespace Sys2Proof.Machine

/-- The end of a scan without a match, `x` being the first column outside the width: BD cleared, the edge
recorded as SRCH_EDGE_X says (41_search.md R141, R142). -/
def searchMiss (g : Geom) (x : Int) (s : State) : State :=
  State.finish { s with
    bd := false
    borderX := (match s.params.srchEdgeX with
      | .lastInRange => x - g.tx.toInt
      | .firstOutOfRange => x) }

/-- The scan from column `x`: tests at most `n` pixels, `n` no less than the columns left (41_search.md
R141, R144). -/
def searchFrom (g : Geom) (eq : Bool) : Nat → Int → State → State
  | 0, x, s => searchMiss g x s
  | n + 1, x, s =>
    if 0 ≤ x ∧ x < g.mx.toNat then
      let s := s.cost .srch
      if xor (s.getPixel g.gl x g.sy = g.cl &&& g.gl.pixelMask) eq then
        State.finish { s with bd := true, borderX := x }
      else searchFrom g eq n (x + g.tx.toInt) s
    else searchMiss g x s

/-- `Srch()`: the start column is wrapped into the row (41_search.md R141, R143). -/
def search (g : Geom) (s : State) : State :=
  searchFrom g s.regs.eq g.mx.toNat (g.sx % g.mx.toNat) s

/-- SRCH (41_search.md R141). -/
def execCmdSrch (lo : BitVec 4) (s : State) : Host.Outcome State Fault Refusal :=
  hostCall s fun s => s.start .srch lo search

end Sys2Proof.Machine
end

