-- ==== Sys2Proof/Machine/Dispatch.lean ====
section
/-! DEFINITION. The dispatch: one arm per instruction. -/

namespace Sys2Proof.Machine

def exec (i : Instr) (s : State) : Host.Outcome State Fault Refusal :=
  match i with
  | .wrSxl v => Sys2Proof.Machine.execWrSxl v s
  | .wrSxh v => Sys2Proof.Machine.execWrSxh v s
  | .wrSyl v => Sys2Proof.Machine.execWrSyl v s
  | .wrSyh v => Sys2Proof.Machine.execWrSyh v s
  | .wrDxl v => Sys2Proof.Machine.execWrDxl v s
  | .wrDxh v => Sys2Proof.Machine.execWrDxh v s
  | .wrDyl v => Sys2Proof.Machine.execWrDyl v s
  | .wrDyh v => Sys2Proof.Machine.execWrDyh v s
  | .wrNxl v => Sys2Proof.Machine.execWrNxl v s
  | .wrNxh v => Sys2Proof.Machine.execWrNxh v s
  | .wrNyl v => Sys2Proof.Machine.execWrNyl v s
  | .wrNyh v => Sys2Proof.Machine.execWrNyh v s
  | .wrClr v => Sys2Proof.Machine.execWrClr v s
  | .wrArg v => Sys2Proof.Machine.execWrArg v s
  | .cmdStop lo => Sys2Proof.Machine.execCmdStop lo s
  | .cmdUnknown1 lo => Sys2Proof.Machine.execCmdUnknown1 lo s
  | .cmdUnknown2 lo => Sys2Proof.Machine.execCmdUnknown2 lo s
  | .cmdUnknown3 lo => Sys2Proof.Machine.execCmdUnknown3 lo s
  | .cmdUnknown4 lo => Sys2Proof.Machine.execCmdUnknown4 lo s
  | .cmdUnknown5 lo => Sys2Proof.Machine.execCmdUnknown5 lo s
  | .cmdSrch lo => Sys2Proof.Machine.execCmdSrch lo s
  | .cmdLine lo => Sys2Proof.Machine.execCmdLine lo s
  | .cmdLmmv lo => Sys2Proof.Machine.execCmdLmmv lo s
  | .cmdLmmm lo => Sys2Proof.Machine.execCmdLmmm lo s
  | .cmdLmcm lo => Sys2Proof.Machine.execCmdLmcm lo s
  | .cmdLmmc lo => Sys2Proof.Machine.execCmdLmmc lo s
  | .cmdHmmv lo => Sys2Proof.Machine.execCmdHmmv lo s
  | .cmdHmmm lo => Sys2Proof.Machine.execCmdHmmm lo s
  | .cmdYmmm lo => Sys2Proof.Machine.execCmdYmmm lo s
  | .cmdHmmc lo => Sys2Proof.Machine.execCmdHmmc lo s
  | .wr15 v => Sys2Proof.Machine.execWr15 v s
  | .rs => Sys2Proof.Machine.execRs s
  | .rp => Sys2Proof.Machine.execRp s
  | .mode m => Sys2Proof.Machine.execMode m s
  | .vnote => Sys2Proof.Machine.execVnote s
  | .save => Sys2Proof.Machine.execSave s
  | .restore => Sys2Proof.Machine.execRestore s
  | .reservedKind7 => Sys2Proof.Machine.execReservedKind7 s
  | .reservedKinds8F => Sys2Proof.Machine.execReservedKinds8F s

end Sys2Proof.Machine
end

