-- ==== Sys2Proof/Machine/Step.lean ====
section
/-! DEFINITION. One step: the next input is taken. -/

namespace Sys2Proof.Machine

/-- One step of the machine. The next input is a host call, which is decoded and executed (00_scope.md R6,
20_memory.md R70), an environment write (20_memory.md R52), or a reset event (70_reset_and_hazards.md
R220). With no input the engine waits, unchanged: "it executes nothing" by itself (R221, log 1). -/
def step (s : State) : Host.Outcome State Fault Refusal :=
  match s.inbox with
  | [] => .next s
  | .call c :: rest => exec (decode c.word) (s.takeCall c rest)
  | .vramWrite a v :: rest => .next ((s.takeInput rest).environmentWrite a v)
  | .reset :: rest => .next (s.takeInput rest).resetEngine

/-- The state in which the host issues the word `w` (its bits above `nbits` 0) as the next call, at time 0
outside blanking (log 1). -/
def State.withFetchWord (s : State) (nbits w : Nat) : State :=
  { s with
    inbox := .call { word := BitVec.ofNat 16 (w % 2 ^ nbits), time := 0, blank := false } :: s.inbox }

end Sys2Proof.Machine
end

