-- ==== Sys2Proof/Safety.lean ====
section
/-! DEFINITION. What counts as a safe state and a safe step, the invariant, and the words the statements
use. -/

namespace Sys2Proof.Machine

/-- No fault mark and no refusal mark: a host call has a step (60_exceptions.md R204). -/
abbrev State.Unmarked (s : State) : Prop := s.fault = none ∧ s.refused = none

/-- A state in which a claim about a run may end: a marked state "is never final" (60_exceptions.md R201,
R202), and no input is left. -/
abbrev State.Final (s : State) : Prop := s.Unmarked ∧ s.inbox = []

/-- A safe step: it leads to a state without a mark. -/
def SafeStep (s t : State) : Prop := step s = .next t ∧ t.Unmarked

/-- A start of a non-NOOP opcode runs in layout `l` (60_exceptions.md R208): no mark, a bitmap layout, and
no active operation unless RESTART_POLICY ends it. -/
def State.Starts (s : State) (l : Layout) : Prop :=
  s.Unmarked ∧ s.mode = .layout l ∧ (s.ce = false ∨ s.params.restartPolicy = .abort)

/-! ## The invariant (10_state.md R25, R26, R28, R31, R32) -/

/-- A row coordinate with `n` rows to go, reached from a 10-bit start within 1023 rows (10_state.md R32). -/
def RowOk (d : Dir) (y : Int) (n : Nat) : Prop :=
  match d with
  | .plus => 0 ≤ y ∧ y + n ≤ 2046
  | .minus => y ≤ 1023 ∧ -1023 ≤ y - n

/-- The position of an unfinished transfer lies in its rectangle: what 10_state.md R30 and R32 say of it,
in a form each transfer step keeps. -/
structure Geom.PositionOk (g : Geom) : Prop where
  width : g.mx = g.gl.pageWidth
  pending : 1 ≤ g.anx.val ∧ g.anx.val ≤ g.nx.val ∧ 1 ≤ g.ny.val
  sourceStart : 0 ≤ g.sx ∧ g.sx ≤ 511
  destStart : 0 ≤ g.dx ∧ g.dx ≤ 511
  sourceColumn : g.asx = if g.cm = .lmcm then g.sx + (g.nx.val - g.anx.val : Int) * g.tx.toInt else g.sx
  destColumn : g.adx = if g.cm = .lmcm then g.dx else g.dx + (g.nx.val - g.anx.val : Int) * g.tx.toInt
  sourceRow : if g.cm = .lmcm then RowOk g.ty g.sy g.ny.val else 0 ≤ g.sy ∧ g.sy ≤ 1023
  destRow : if g.cm = .lmcm then 0 ≤ g.dy ∧ g.dy ≤ 1023 else RowOk g.ty g.dy g.ny.val

/-- The status bits, border X and geometry of an engine between two host calls: CE exactly with a geometry
(10_state.md R25), TR exactly with a transfer (R26), no geometry but a transfer's (R31), its position in
range (R32), border X in range (R28). -/
structure EngineOk (tr ce : Bool) (borderX : Int) (geom : Option Geom) : Prop where
  active : ce = geom.isSome
  ready : tr = transferActive geom
  border : -1 ≤ borderX ∧ borderX ≤ 512
  transfer : ∀ g, geom = some g → g.cm.isTransfer = true ∧ g.PositionOk

/-- The invariant of the machine: the engine and the record of the last SAVE are as they are between two
calls, and video memory is in canonical form. -/
structure State.Inv (s : State) : Prop where
  engine : EngineOk s.tr s.ce s.borderX s.geom
  memory : Memory.wf s.vram
  record : ∀ r, s.saved = some r → r.version = 1 ∧
    EngineOk (statusTr r.status) (statusCe r.status) r.borderX r.geom

/-! ## Words the statements use -/

/-- The same outcome with `f` applied to a next state. -/
def mapNext (f : State → State) :
    Host.Outcome State Fault Refusal → Host.Outcome State Fault Refusal
  | .next s => .next (f s)
  | .fault r => .fault r
  | .refused r => .refused r

/-- Host calls one after the other, stopping at the first that has no step. -/
def feed : List Instr → State → Host.Outcome State Fault Refusal
  | [], s => .next s
  | i :: is, s =>
    match exec i s with
    | .next t => feed is t
    | .fault r => .fault r
    | .refused r => .refused r

/-- The state with the blanking flag and every cost counter set to 0 (10_state.md R33). -/
def State.eraseCost (s : State) : State :=
  { s with
    blank := false
    lastCost := 0
    geom := s.geom.map fun g => { g with opc := 0 }
    saved := s.saved.map fun r =>
      { r with lastCost := 0, geom := r.geom.map fun g => { g with opc := 0 } } }

/-- The pixel value a logical-operation code gives for a source and a destination colour, by the table of
20_memory.md R60 and the transparency of R62; none for the reserved codes, whose value is free. -/
def combine (lo : BitVec 4) (sc dc pm : Byte) : Option Byte :=
  match lo.toNat with
  | 0 => some sc
  | 1 => some (sc &&& dc)
  | 2 => some (sc ||| dc)
  | 3 => some (sc ^^^ dc)
  | 4 => some (~~~sc &&& pm)
  | 8 => some (if sc = 0 then dc else sc)
  | 9 => some (if sc = 0 then dc else sc &&& dc)
  | 10 => some (if sc = 0 then dc else sc ||| dc)
  | 11 => some (if sc = 0 then dc else sc ^^^ dc)
  | 12 => some (if sc = 0 then dc else ~~~sc &&& pm)
  | _ => none

/-- The reserved codes 5, 6, 7, 13, 14, 15 (20_memory.md R60). -/
abbrev reservedCode (lo : BitVec 4) : Prop := 5 ≤ lo.toNat % 8

/-- Two coordinate pairs name the same pixel of layout `l`: X modulo the width, Y modulo the rows
(20_memory.md R55). -/
abbrev samePixel (l : Layout) (x y x' y' : Int) : Prop :=
  x % l.pageWidth.toNat = x' % l.pageWidth.toNat ∧ y % l.rows = y' % l.rows

/-- The X step a start takes from the registers (30_encoding.md R83). -/
def xStep (r : Regs) : Int := if r[13].getLsbD 2 then -1 else 1

/-- The Y step a start takes from the registers (30_encoding.md R83). -/
def yStep (r : Regs) : Int := if r[13].getLsbD 3 then -1 else 1

/-- What `lastCost` is once a start has ended the operation that was active, if any (40_dispatch.md R112). -/
def State.endedCost (s : State) : Nat :=
  if s.ce then s.counter else s.lastCost

/-- The state at the beginning of a handler that has done nothing yet, its counters aside: what a start
that ends with `Finish()` leaves of every field but VRAM, BD, border X, the draws and the last cost. -/
structure StartFrame (s t : State) (command : Byte) : Prop where
  regs : t.regs = s.regs.set 14 command
  tr : t.tr = false
  ce : t.ce = false
  geom : t.geom = none
  mode : t.mode = s.mode
  params : t.params = s.params
  saved : t.saved = s.saved
  time : t.time = s.time
  blank : t.blank = s.blank
  inbox : t.inbox = s.inbox
  replies : t.replies = s.replies
  fault : t.fault = s.fault
  refused : t.refused = s.refused

/-- The body run for every row `j < ny` in order and within it every column `i < nx` in order, as
43_logical_moves.md R161 orders a rectangle. -/
def overRectangle (nx ny : Nat) (body : Nat → Nat → State → State) (s : State) : State :=
  (List.range ny).foldl (fun s j => (List.range nx).foldl (fun s i => body i j s) s) s

/-- The instruction is an INSTANT opcode that writes VRAM, or the register write that feeds a transfer. -/
def mayStore : Instr → Bool
  | .cmdLine _ | .cmdLmmv _ | .cmdLmmm _ | .cmdHmmv _ | .cmdHmmm _ | .cmdYmmm _ | .wrClr _ => true
  | .wrSxl _ | .wrSxh _ | .wrSyl _ | .wrSyh _ | .wrDxl _ | .wrDxh _ | .wrDyl _ | .wrDyh _ => false
  | .wrNxl _ | .wrNxh _ | .wrNyl _ | .wrNyh _ | .wrArg _ | .wr15 _ => false
  | .cmdStop _ | .cmdUnknown1 _ | .cmdUnknown2 _ | .cmdUnknown3 _ | .cmdUnknown4 _ => false
  | .cmdUnknown5 _ | .cmdSrch _ | .cmdLmcm _ | .cmdLmmc _ | .cmdHmmc _ => false
  | .rs | .rp | .mode _ | .vnote | .save | .restore | .reservedKind7 | .reservedKinds8F => false

/-! ## The rows of the table, grouped by what they do -/

/-- WR 0 to 11 and 13, each with the register it names (30_encoding.md R80). -/
def plainWrites (v : Byte) : List (Instr × Fin 15) :=
  [(.wrSxl v, 0), (.wrSxh v, 1), (.wrSyl v, 2), (.wrSyh v, 3), (.wrDxl v, 4), (.wrDxh v, 5),
   (.wrDyl v, 6), (.wrDyh v, 7), (.wrNxl v, 8), (.wrNxh v, 9), (.wrNyl v, 10), (.wrNyh v, 11),
   (.wrArg v, 13)]

/-- STOP and the unknown codes, each with its CM (30_encoding.md R85). -/
def noopCommands (lo : BitVec 4) : List (Instr × BitVec 4) :=
  [(.cmdStop lo, 0), (.cmdUnknown1 lo, 1), (.cmdUnknown2 lo, 2), (.cmdUnknown3 lo, 3),
   (.cmdUnknown4 lo, 4), (.cmdUnknown5 lo, 5)]

/-- The seven INSTANT opcodes, each with its CM (30_encoding.md R85, 40_dispatch.md R103). -/
def instantCommands (lo : BitVec 4) : List (Instr × BitVec 4) :=
  [(.cmdSrch lo, 6), (.cmdLine lo, 7), (.cmdLmmv lo, 8), (.cmdLmmm lo, 9), (.cmdHmmv lo, 12),
   (.cmdHmmm lo, 13), (.cmdYmmm lo, 14)]

/-- The three TRANSFER opcodes, each with its CM (30_encoding.md R85, 40_dispatch.md R103). -/
def transferCommands (lo : BitVec 4) : List (Instr × BitVec 4) :=
  [(.cmdLmcm lo, 10), (.cmdLmmc lo, 11), (.cmdHmmc lo, 15)]

/-- The eight rectangle opcodes, each with its CM (40_dispatch.md R124). -/
def rectangleCommands (lo : BitVec 4) : List (Instr × BitVec 4) :=
  [(.cmdLmmv lo, 8), (.cmdLmmm lo, 9), (.cmdLmcm lo, 10), (.cmdLmmc lo, 11), (.cmdHmmv lo, 12),
   (.cmdHmmm lo, 13), (.cmdYmmm lo, 14), (.cmdHmmc lo, 15)]

end Sys2Proof.Machine
end

