-- ==== Sys2Proof/Certificates/Slice0/Obligations.lean ====
section
/-! DEFINITION. The statements for the provers. Each docstring names the rule it formalises. -/

open Sys2Proof Sys2Proof.Machine

/-! ## Encoding -/

/-- Decoding an encoded instruction gives it back, every operand at every value (30_encoding.md R80,
R85, R90). The register numbering D1, the opcode numbering D3 and the word format D21 are the spec's
own choices (log 13). -/
def Obligations.DecodeOfEncodeIsIdentity : Prop :=
  ∀ i : Instr, i.wellFormed = true → decode (encode i) = i

/-- The decoder keeps every bit R92 says it takes, and no other: encoding what was decoded gives back
the word with the ignored bits cleared. The word format D21 is the spec's own choice (log 13). -/
def Obligations.EncodeOfDecodeKeepsTheBitsTaken : Prop :=
  ∀ w : HostWord, w.toNat < 0x7000 →
    (decode w).wellFormed = true ∧
    encode (decode w) =
      w &&& (if w.toNat < 0x1000 then 0xFFFF
        else if 0x3000 ≤ w.toNat ∧ w.toNat < 0x4000 then 0xF0FF else 0xF000)

/-- A word of a reserved kind names no host call and is refused, whatever the state (30_encoding.md R90,
R92). The word format D21 is the spec's own choice (log 13); that the refusal is a constructor which
exec refuses is the model's (log 6). -/
def Obligations.ReservedKindsAreRefused : Prop :=
  (∀ (w : HostWord) (s : State), 0x7000 ≤ w.toNat →
    (decode w).wellFormed = false ∧ exec (decode w) s = .refused .reservedKind) ∧
  ∀ s : State, exec .reservedKind7 s = .refused .reservedKind ∧
    exec .reservedKinds8F s = .refused .reservedKind

/-- Words written out from 30_encoding.md R80, R85, R90 and R91 decode to what they stand for. The
numberings D1, D3 and the word format D21 are the spec's own choices (log 13). -/
def Obligations.SpecWordsDecodeAsWritten : Prop :=
  decode 0x0E82 = .cmdLmmv 2 ∧ decode 0x042C = .wrDxl 0x2C ∧ decode 0x0501 = .wrDxh 1 ∧
  decode 0x0F05 = .wr15 5 ∧ decode 0x0E60 = .cmdSrch 0 ∧ decode 0x0EF3 = .cmdHmmc 3 ∧
  decode 0x0E4F = .cmdUnknown4 15 ∧ decode 0x0C55 = .wrClr 0x55 ∧ decode 0x1ABC = .rs ∧
  decode 0x2000 = .rp ∧ decode 0x3007 = .mode 7 ∧ decode 0x6000 = .restore ∧
  decode 0x7000 = .reservedKind7 ∧ decode 0xF123 = .reservedKinds8F

/-! ## A step, reset -/

/-- A step with a host call next runs the instruction its word decodes to, on the state that has taken
the call and its time and blanking flag (20_memory.md R70, R73). Inputs as a list in State are the
model's choice (log 1). The word format D21 and the time and blanking inputs D20, D9 are the spec's
own choices (logs 8, 13, 22). -/
def Obligations.StepRunsTheDecodedCall : Prop :=
  ∀ (s : State) (c : HostCall) (rest : List Input) (i : Instr),
    s.inbox = .call c :: rest → decode c.word = i → i.wellFormed = true →
    step s = exec i { s with inbox := rest, time := c.time, blank := c.blank }

/-- An environment write changes one VRAM byte and nothing else of the machine (20_memory.md R52), and a
state without inputs waits (log 1). Inputs as a list in State are the model's choice (log 1); that
the environment may write at any time is the spec's own choice D19 (log 22). -/
def Obligations.StepTakesEnvironmentWrites : Prop :=
  ∀ s : State,
    (∀ (a : VramAddr) (v : Byte) (rest : List Input), s.inbox = .vramWrite a v :: rest →
      Memory.wf s.vram →
      ∃ m : Memory, step s = .next { s with inbox := rest, vram := m } ∧ Memory.wf m ∧
        ∀ b, m.read b = if b = a then v else s.vram.read b) ∧
    (s.inbox = [] → step s = .next s)

/-- A reset event sets every field of the engine state but the two marks to the value of 10_state.md
R37 and does not touch VRAM (70_reset_and_hazards.md R220); a mark that is set stays (60_exceptions.md
R204). That R204 goes before R220's "every field" for the marks is the model's choice (log 4,
DEDUCED); where no mark is set, both rules say the same. The reset event and its values are the spec's
own choice D17 (log 22), the marks its choice D18 (log 2). -/
def Obligations.ResetEventResetsTheEngineOnly : Prop :=
  ∀ (s : State) (rest : List Input), s.inbox = .reset :: rest →
    step s = .next { s with
      inbox := rest
      regs := Vector.replicate 15 0
      tr := false
      bd := false
      ce := false
      borderX := 0
      mode := .other
      geom := none
      lastCost := 0 }

/-- The reset values of 10_state.md R37. The values are the spec's own choice D17 (log 22). -/
def Obligations.ResetValuesAreTheSpecs : Prop :=
  (∀ i : Fin 15, State.reset.regs[i] = 0) ∧ State.reset.ce = false ∧ State.reset.geom = none ∧
  State.reset.tr = false ∧ State.reset.bd = false ∧ State.reset.borderX = 0 ∧
  State.reset.mode = .other ∧ State.reset.lastCost = 0 ∧ State.reset.refused = none ∧
  State.reset.fault = none

/-! ## Register writes -/

/-- WR 0 to 11 and 13 store the byte and do nothing else, whether CE is 0 or 1 (40_dispatch.md R101). -/
def Obligations.PlainWritesStoreTheByteOnly : Prop :=
  ∀ (s : State) (v : Byte), s.Unmarked → ∀ p ∈ plainWrites v,
    exec p.1 s = .next { s with regs := s.regs.set p.2 v }

/-- WR 12 with no LMMC or HMMC active only stores the colour register (40_dispatch.md R102). That the
write does no more is the spec's own choice D25 (log 20). -/
def Obligations.ColourWriteOutsideTransfersOnlyStores : Prop :=
  ∀ (s : State) (v : Byte), s.Unmarked →
    (s.ce = false ∨ ∀ g, s.geom = some g → g.cm ≠ .lmmc ∧ g.cm ≠ .hmmc) →
    exec (.wrClr v) s = .next { s with regs := s.regs.set 12 v }

/-- WR 15 raises RegisterIndexOutOfRange(15), which changes nothing else (60_exceptions.md R201,
R205). The fault as a mark is the spec's own choice D18; that the call which sets it answers a next
state is the model's reading (log 2). -/
def Obligations.WriteOfRegister15RaisesTheFault : Prop :=
  ∀ (s : State) (v : Byte), s.Unmarked →
    exec (.wr15 v) s = .next { s with fault := some (.registerIndexOutOfRange 15) }

/-- Only a register write changes a register, and only the one it names; RESTORE, which replaces them
all, is kind 6 (10_state.md R21). The word format D21 is the spec's own choice (log 13). -/
def Obligations.RegistersChangeOnlyByTheirWrite : Prop :=
  ∀ (w : HostWord) (s t : State), ¬ (0x6000 ≤ w.toNat ∧ w.toNat < 0x7000) →
    exec (decode w) s = .next t →
    ∀ i : Fin 15, t.regs[i] =
      if w.toNat < 0x1000 ∧ w.toNat / 256 = i.val then w.extractLsb' 0 8 else s.regs[i]

/-! ## Marks -/

/-- Once a mark is set no host call has a step, and no step of any kind, an environment write or a
reset event among them, clears it (60_exceptions.md R204). The marks are the spec's own choice D18
(log 2); that R204 holds through a reset event is the model's choice between it and
70_reset_and_hazards.md R220 (log 4, DEDUCED). -/
def Obligations.MarkedStateIsStuck : Prop :=
  (∀ (i : Instr) (s : State), i.wellFormed = true →
    (∀ r, s.fault = some r → exec i s = .fault r) ∧
    (∀ r, s.fault = none → s.refused = some r → exec i s = .refused (.stuck r))) ∧
  ∀ s t : State, step s = .next t →
    (∀ r, s.fault = some r → t.fault = some r) ∧ (∀ r, s.refused = some r → t.refused = some r)

/-- Every host call on a state without a mark has a step (60_exceptions.md R208, R215). That a call
which sets a mark answers a next state is the model's reading (log 2). -/
def Obligations.UnmarkedCallsHaveAStep : Prop :=
  ∀ (i : Instr) (s : State), i.wellFormed = true → s.Unmarked → ∃ t, exec i s = .next t

/-! ## Reads, notifications, the persisted-state record -/

/-- RS returns TR at bit 7, BD at bit 4, CE at bit 0, all other bits zero, and has no side effect
(40_dispatch.md R113, 30_encoding.md R88). -/
def Obligations.ReadStatusReturnsThePackedBits : Prop :=
  ∀ s : State, s.Unmarked → ∃ b : Byte, exec .rs s = .next { s with replies := s.replies ++ [b] } ∧
    b.toNat = (if s.tr then 128 else 0) + (if s.bd then 16 else 0) + (if s.ce then 1 else 0)

/-- MODE sets the layout of later starts, and nothing of an active operation (40_dispatch.md R115, R116). -/
def Obligations.ModeCallSetsTheModeOnly : Prop :=
  ∀ (s : State) (m : Byte), s.Unmarked → ∃ d : Mode, exec (.mode m) s = .next { s with mode := d } ∧
    (m = 0 → d = .layout .l0) ∧ (m = 1 → d = .layout .l1) ∧ (m = 2 → d = .layout .l2) ∧
    (m = 3 → d = .layout .l3) ∧ (4 ≤ m.toNat → d = .other)

/-- VNOTE has no effect on any state (40_dispatch.md R117). That the notification has no effect is the
spec's own choice D19 (log 22). -/
def Obligations.VramNotificationHasNoEffect : Prop :=
  ∀ s : State, s.Unmarked → exec .vnote s = .next s

/-- SAVE takes the record of 40_dispatch.md R118 and has no side effect on the engine. Version 1 is the
spec's own choice D22; that the world's record is a field of State is the model's (log 10). -/
def Obligations.SaveTakesTheRecord : Prop :=
  ∀ s : State, s.Unmarked → ∃ r : Record, exec .save s = .next { s with saved := some r } ∧
    r.version = 1 ∧ r.regs = s.regs ∧ r.borderX = s.borderX ∧ r.mode = s.mode ∧ r.geom = s.geom ∧
    r.lastCost = s.lastCost ∧
    r.status.toNat = (if s.tr then 128 else 0) + (if s.bd then 16 else 0) + (if s.ce then 1 else 0)

/-- RESTORE replaces every field of the record and changes nothing else (40_dispatch.md R119), for a
record of version 1 that keeps 10_state.md R25, R26 and R32 and whose transfer is unfinished (log
10). The record's checks are the spec's own choice D22; the last premise is the model's (log 10). -/
def Obligations.RestoreReplacesTheRecordedFields : Prop :=
  ∀ (s : State) (r : Record), s.Unmarked → s.saved = some r → r.version = 1 →
    r.status.getLsbD 0 = r.geom.isSome →
    (r.status.getLsbD 7 = true ↔ ∃ g, r.geom = some g ∧ g.cm.isTransfer = true) →
    (∀ g, r.geom = some g → g.cm.isTransfer = true →
      (-511 ≤ g.asx ∧ g.asx ≤ 1022 ∧ -511 ≤ g.adx ∧ g.adx ≤ 1022 ∧ -1023 ≤ g.sy ∧ g.sy ≤ 2046 ∧
        -1023 ≤ g.dy ∧ g.dy ≤ 2046) ∧ g.nx ≠ 0 ∧ g.anx ≠ 0 ∧ g.ny ≠ 0) →
    exec .restore s = .next { s with
      regs := r.regs
      tr := r.status.getLsbD 7
      bd := r.status.getLsbD 4
      ce := r.status.getLsbD 0
      borderX := r.borderX
      mode := r.mode
      geom := r.geom
      lastCost := r.lastCost }

/-- A record whose version is not 1, or which breaks 10_state.md R25, R26 or R32, is refused
(40_dispatch.md R119). The refusal is the spec's own choice D22 (log 10). -/
def Obligations.RestoreRefusesABadRecord : Prop :=
  ∀ (s : State) (r : Record), s.Unmarked → s.saved = some r →
    (r.version ≠ 1 ∨ r.status.getLsbD 0 ≠ r.geom.isSome ∨
      ¬ (r.status.getLsbD 7 = true ↔ ∃ g, r.geom = some g ∧ g.cm.isTransfer = true) ∨
      ∃ g, r.geom = some g ∧ g.cm.isTransfer = true ∧
        ¬ (-511 ≤ g.asx ∧ g.asx ≤ 1022 ∧ -511 ≤ g.adx ∧ g.adx ≤ 1022 ∧ -1023 ≤ g.sy ∧ g.sy ≤ 2046 ∧
          -1023 ≤ g.dy ∧ g.dy ≤ 2046)) →
    exec .restore s = .next { s with refused := some .badRecord }

/-- The model's own choices for RESTORE (log 10): no record taken, or a record of a transfer with nothing
left to move, is refused. -/
def Obligations.RestoreRefusesWhereNothingCanResume : Prop :=
  ∀ s : State, s.Unmarked →
    (s.saved = none ∨ ∃ r g, s.saved = some r ∧ r.geom = some g ∧ g.cm.isTransfer = true ∧
      (g.nx = 0 ∨ g.anx = 0 ∨ g.ny = 0)) →
    exec .restore s = .next { s with refused := some .badRecord }

/-- The round trip of 40_dispatch.md R119: a record taken in a state of the invariant restores, in any
later state that still holds it, the engine bit for bit. The record is the spec's own choice D22
(log 10). -/
def Obligations.RestoreAfterSaveRecoversTheEngine : Prop :=
  ∀ s : State, s.Unmarked → s.Inv → ∃ s₁, exec .save s = .next s₁ ∧
    ∀ u : State, u.Unmarked → u.saved = s₁.saved →
      exec .restore u = .next { u with
        regs := s.regs
        tr := s.tr
        bd := s.bd
        ce := s.ce
        borderX := s.borderX
        mode := s.mode
        geom := s.geom
        lastCost := s.lastCost }

/-! ## Starts -/

/-- The snapshot assembles its fields from register pairs and the direction bits (30_encoding.md R81,
R83, 40_dispatch.md R105). The map, widths and direction bits D1, D2 and the widths of the layouts
D5 are the spec's own choices (logs 13, 14). -/
def Obligations.SnapshotAssemblesTheFields : Prop :=
  ∀ (cm : Opcode) (lo : BitVec 4) (l : Layout) (r : Regs),
    let g := snapshot cm lo l r
    g.cm = cm ∧ g.lo = lo ∧ g.gl = l ∧ g.cl = r[12] ∧ g.opc = 0 ∧
    g.sx = (r[1].toNat % 2 * 256 + r[0].toNat : Nat) ∧
    g.sy = (r[3].toNat % 4 * 256 + r[2].toNat : Nat) ∧
    g.dx = (r[5].toNat % 2 * 256 + r[4].toNat : Nat) ∧
    g.dy = (r[7].toNat % 4 * 256 + r[6].toNat : Nat) ∧
    g.nx.val = r[9].toNat % 2 * 256 + r[8].toNat ∧
    g.ny.val = r[11].toNat % 4 * 256 + r[10].toNat ∧
    g.asx = g.sx ∧ g.adx = g.dx ∧ g.anx = g.nx ∧
    g.tx.toInt = xStep r ∧ g.ty.toInt = yStep r ∧
    g.mx.toNat = (match l with | .l0 => 256 | .l1 => 512 | .l2 => 512 | .l3 => 256)

/-- STOP and the unknown codes end an active operation, touch no VRAM and no border, and run in every
mode (40_dispatch.md R107, R108). Which codes are unknown is the spec's own choice D3 (log 13). -/
def Obligations.NoopCommandsEndTheOperation : Prop :=
  ∀ (s : State) (lo : BitVec 4), s.Unmarked → ∀ p ∈ noopCommands lo,
    exec p.1 s = .next { s with
      regs := s.regs.set 14 (p.2 ++ lo)
      ce := false
      tr := if s.ce then false else s.tr
      geom := if s.ce then none else s.geom
      lastCost := 0 }

/-- A start of any other opcode in mode OTHER is refused, the command byte stored and an active
operation ended (40_dispatch.md R109, 60_exceptions.md R208). The refusal and the restart policy are
the spec's own choices D7, D8 (log 16). The opcode numbering is the spec's own choice D3 (log 13). -/
def Obligations.StartInModeOtherIsRefused : Prop :=
  ∀ (s : State) (lo : BitVec 4), s.Unmarked → s.mode = .other →
    (s.ce = false ∨ s.params.restartPolicy = .abort) →
    ∀ p ∈ instantCommands lo ++ transferCommands lo,
      exec p.1 s = .next { s with
        regs := s.regs.set 14 (p.2 ++ lo)
        ce := false
        tr := if s.ce then false else s.tr
        geom := if s.ce then none else s.geom
        lastCost := s.endedCost
        refused := some .noBitmapLayout }

/-- With RESTART_POLICY = refuse a start while an operation is active is refused in every mode, the
command byte stored (40_dispatch.md R106, 60_exceptions.md R208). The policy is the spec's own
choice D8 (log 16). The opcode numbering is the spec's own choice D3 (log 13). -/
def Obligations.RestartIsRefusedUnderThatPolicy : Prop :=
  ∀ (s : State) (lo : BitVec 4), s.Unmarked → s.ce = true → s.params.restartPolicy = .refuse →
    ∀ p ∈ instantCommands lo ++ transferCommands lo,
      exec p.1 s = .next { s with
        regs := s.regs.set 14 (p.2 ++ lo)
        refused := some .restartWhileActive }

/-- Degenerate geometry is an immediate no-op completion of the eight rectangle opcodes (40_dispatch.md
R124). The opcode numbering is the spec's own choice D3 (log 13). -/
def Obligations.DegenerateStartsCompleteAtOnce : Prop :=
  ∀ (s : State) (l : Layout) (lo : BitVec 4), s.Starts l → (s.regs.nx = 0 ∨ s.regs.ny = 0) →
    ∀ p ∈ rectangleCommands lo,
      exec p.1 s = .next { s with
        regs := s.regs.set 14 (p.2 ++ lo)
        tr := false
        ce := false
        geom := none
        lastCost := 0 }

/-- HMMV, HMMM and HMMC with a width that rounds down to no byte complete at once
(44_high_speed_moves.md R181). The rule is the spec's own choice D13 (log 21). The opcode numbering
is the spec's own choice D3 (log 13). The register fields and bits D1, D2 and the layouts D5 are the
spec's own choices (logs 13, 14). -/
def Obligations.NarrowHighSpeedStartsCompleteAtOnce : Prop :=
  ∀ (s : State) (l : Layout) (lo : BitVec 4), s.Starts l → 1 ≤ s.regs.nx.toNat →
    s.regs.nx.toNat < l.pixelsPerByte → s.regs.ny ≠ 0 →
    ∀ p ∈ [(Instr.cmdHmmv lo, (12 : BitVec 4)), (.cmdHmmm lo, 13), (.cmdHmmc lo, 15)],
      exec p.1 s = .next { s with
        regs := s.regs.set 14 (p.2 ++ lo)
        tr := false
        ce := false
        geom := none
        lastCost := 0 }

/-- An LMCM or LMMC that is not degenerate starts with TR = 1 and CE = 1 on the snapshot, and accesses
no VRAM (43_logical_moves.md R165, R168, 40_dispatch.md R111). That no pixel moves at the start is
the spec's own choice D15 (log 20). The opcode numbering is the spec's own choice D3 (log 13). -/
def Obligations.LogicalTransferStartsAndWaits : Prop :=
  ∀ (s : State) (l : Layout) (lo : BitVec 4), s.Starts l → s.regs.nx ≠ 0 → s.regs.ny ≠ 0 →
    ∀ p ∈ [(Instr.cmdLmcm lo, (10 : BitVec 4), Opcode.lmcm), (.cmdLmmc lo, 11, .lmmc)],
      exec p.1 s = .next { s with
        regs := s.regs.set 14 (p.2.1 ++ lo)
        tr := true
        ce := true
        geom := some (snapshot p.2.2 lo l s.regs)
        lastCost := s.endedCost }

/-- An HMMC of at least one byte starts with TR = 1 and CE = 1, its destination row in byte units
(44_high_speed_moves.md R187, R180). Byte units are the spec's own choice D13 (log 21). The opcode
numbering is the spec's own choice D3 (log 13). The register fields and bits D1, D2 and the layouts
D5 are the spec's own choices (logs 13, 14). -/
def Obligations.ByteTransferStartsAndWaits : Prop :=
  ∀ (s : State) (l : Layout) (lo : BitVec 4), s.Starts l → l.pixelsPerByte ≤ s.regs.nx.toNat →
    s.regs.ny ≠ 0 →
    ∃ n : Fin 512, n.val = s.regs.nx.toNat / l.pixelsPerByte ∧
      exec (.cmdHmmc lo) s = .next { s with
        regs := s.regs.set 14 (0xF#4 ++ lo)
        tr := true
        ce := true
        geom := some { snapshot .hmmc lo l s.regs with
          dx := (s.regs.dx.toNat / l.pixelsPerByte : Nat)
          adx := (s.regs.dx.toNat / l.pixelsPerByte : Nat)
          nx := n
          anx := n }
        lastCost := s.endedCost }

/-- Every INSTANT opcode completes inside its start: CE and TR are 0 and the geometry absent when it
returns, the other opcodes than SRCH leave BD and border X alone, and nothing outside the operation
changes (40_dispatch.md R110, R126, 41_search.md R146). That BD stays is the spec's own choice D16
(log 17). The opcode numbering is the spec's own choice D3 (log 13). -/
def Obligations.InstantStartsRunToCompletion : Prop :=
  ∀ (s : State) (l : Layout) (lo : BitVec 4), s.Starts l → ∀ p ∈ instantCommands lo,
    ∃ t, exec p.1 s = .next t ∧ StartFrame s t (p.2 ++ lo) ∧
      (p.1 ≠ .cmdSrch lo → t.bd = s.bd ∧ t.borderX = s.borderX)

/-! ## Pixel accessor and memory -/

/-- With PLANAR_G6G7 = false the address is linear and wraps (20_memory.md R55). The layouts' arithmetic
is the spec's own choice D5 (log 14). -/
def Obligations.LinearAddressWraps : Prop :=
  ∀ x y : Int,
    ((Layout.l0.address false x y).toNat : Int) = y % 1024 * 128 + x % 256 / 2 ∧
    ((Layout.l1.address false x y).toNat : Int) = y % 1024 * 128 + x % 512 / 4 ∧
    ((Layout.l2.address false x y).toNat : Int) = y % 512 * 256 + x % 512 / 2 ∧
    ((Layout.l3.address false x y).toNat : Int) = y % 512 * 256 + x % 256

/-- With PLANAR_G6G7 = true layouts 2 and 3 interleave and layouts 0 and 1 are unchanged (20_memory.md
R56). The arithmetic is the spec's own choice D5 (log 14). -/
def Obligations.InterleavedAddressAlternatesHalves : Prop :=
  ∀ x y : Int,
    Layout.l0.address true x y = Layout.l0.address false x y ∧
    Layout.l1.address true x y = Layout.l1.address false x y ∧
    ((Layout.l2.address true x y).toNat : Int) = x % 4 / 2 * 65536 + y % 512 * 128 + x % 512 / 4 ∧
    ((Layout.l3.address true x y).toNat : Int) = x % 2 * 65536 + y % 512 * 128 + x % 256 / 2

/-- Every layout, under either addressing, maps its byte columns and rows one to one onto the whole of
VRAM (20_memory.md R54, R68). The layouts and the VRAM size are the spec's own choices D5, D6 (log
14). -/
def Obligations.LayoutsCoverVramOnce : Prop :=
  ∀ (l : Layout) (planar : Bool),
    (∀ a : VramAddr, ∃ bx y : Nat, bx < l.bytesPerRow ∧ y < l.rows ∧ l.byteAddress planar bx y = a) ∧
    ∀ bx y bx' y' : Nat, bx < l.bytesPerRow → y < l.rows → bx' < l.bytesPerRow → y' < l.rows →
      l.byteAddress planar bx y = l.byteAddress planar bx' y' → bx = bx' ∧ y = y'

/-- SetPixel composites by the table of 20_memory.md R60 and R62 into the addressed pixel, leaves every
other pixel and every byte at another address as it was, and changes nothing but VRAM (R59). The
numbering and the cutting of colours D4 and the bit placement D5 are the spec's own choices (logs
14, 15). -/
def Obligations.SetPixelCompositesOnePixel : Prop :=
  ∀ (s : State) (l : Layout) (x y : Int) (c : Byte) (lo : BitVec 4),
    Memory.wf s.vram → ¬ reservedCode lo →
    let t := s.setPixel l x y c lo
    (∃ m : Memory, t = { s with vram := m }) ∧
    combine lo (c &&& l.pixelMask) (s.getPixel l x y) l.pixelMask = some (t.getPixel l x y) ∧
    (∀ x' y', ¬ samePixel l x y x' y' → t.getPixel l x' y' = s.getPixel l x' y') ∧
    (∀ a, a ≠ l.address s.params.planarG6G7 x y → t.vram.read a = s.vram.read a) ∧
    (8 ≤ lo.toNat → c &&& l.pixelMask = 0 → t = s)

/-- A reserved code draws: one free value is taken, the pixel becomes that value cut to the pixel mask,
and no other pixel changes; transparent on colour 0 as the others (20_memory.md R60,
60_exceptions.md R203, log 7). The reserved codes are the spec's own choice D4 (log 15); how a draw
stands in State is the model's (log 7). -/
def Obligations.ReservedCodeDrawsThePixel : Prop :=
  ∀ (s : State) (l : Layout) (x y : Int) (c : Byte) (lo : BitVec 4),
    Memory.wf s.vram → reservedCode lo →
    let t := s.setPixel l x y c lo
    (8 ≤ lo.toNat ∧ c &&& l.pixelMask = 0 → t = s) ∧
    (¬ (8 ≤ lo.toNat ∧ c &&& l.pixelMask = 0) →
      (∃ m : Memory, t = { s with vram := m, draws := s.draws + 1 }) ∧
      t.getPixel l x y = Config.freePixel s.draws &&& l.pixelMask ∧
      ∀ x' y', ¬ samePixel l x y x' y' → t.getPixel l x' y' = s.getPixel l x' y')

/-- A call that stores no pixel leaves VRAM, byte for byte, and the free values alone: every instruction
but LINE, LMMV, LMMM, HMMV, HMMM, YMMM and WR 12 (41_search.md R141, 40_dispatch.md R107, R111).
That the unknown codes leave VRAM alone rests on the opcode numbering, the spec's own choice D3 (log
13); that LMCM, LMMC and HMMC store nothing at their start, and RP nothing, on its choice D15 (log
20); that VNOTE has no effect, on its choice D19 (log 22). How a draw stands in State is the model's
choice (log 7). -/
def Obligations.OtherCallsLeaveVramAlone : Prop :=
  ∀ (i : Instr) (s t : State), mayStore i = false → exec i s = .next t →
    t.vram = s.vram ∧ t.draws = s.draws

/-! ## SRCH -/

/-- SRCH tests the pixels of row SY from `SX & (MX - 1)` on in direction TX; the first that matches is
recorded with BD = 1, and where none does BD is cleared and the edge recorded (41_search.md R141 to
R143). One cost is charged for each pixel tested (40_dispatch.md R123). The start column, polarity
and edge are the spec's own choices D10, the cut colour D4 (logs 15, 18). Where a cost is charged is
the spec's own choice D9 (log 8). The register fields and bits D1, D2 and the layouts D5 are the
spec's own choices (logs 13, 14). -/
def Obligations.SearchRecordsTheFirstMatch : Prop :=
  ∀ (s : State) (l : Layout) (lo : BitVec 4), s.Starts l →
    let width : Nat := l.pageWidth.toNat
    let first : Int := (s.regs.sx.toNat : Int) % width
    let column : Nat → Int := fun k => first + k * xStep s.regs
    let hit : Nat → Prop := fun k =>
      (s.getPixel l (column k) s.regs.sy.toNat = s.regs[12] &&& l.pixelMask) ↔
        s.regs[13].getLsbD 1 = false
    let columns : Nat := if s.regs[13].getLsbD 2 then first.toNat + 1 else width - first.toNat
    ∃ t, exec (.cmdSrch lo) s = .next t ∧ t.vram = s.vram ∧
      (∀ k, k < columns → hit k → (∀ j, j < k → ¬ hit j) →
        t.bd = true ∧ t.borderX = column k ∧
        t.lastCost = (k + 1) * Config.costTable .srch l s.blank) ∧
      ((∀ k, k < columns → ¬ hit k) →
        t.bd = false ∧ t.lastCost = columns * Config.costTable .srch l s.blank ∧
        t.borderX = match s.params.srchEdgeX with
          | .lastInRange => if s.regs[13].getLsbD 2 then 0 else (width : Int) - 1
          | .firstOutOfRange => if s.regs[13].getLsbD 2 then -1 else (width : Int))

/-- BD and border X change only by SRCH, and by RESTORE, which puts back a record's (10_state.md R27,
41_search.md R146). That they keep their value is the spec's own choice D16 (log 17). -/
def Obligations.OnlySearchAndRestoreChangeTheBorder : Prop :=
  ∀ (i : Instr) (s t : State), (∀ lo, i ≠ .cmdSrch lo) → i ≠ .restore → exec i s = .next t →
    t.bd = s.bd ∧ t.borderX = s.borderX

/-! ## LINE -/

/-- LINE calls SetPixel exactly NX + 1 times, on the points of 42_line.md R151 to R155: after `k` steps
of the major axis the minor axis has moved `(k * NY + NX / 2) / NX` times, every time where NY > NX;
the cost is charged once for each. The operands, the error term and the wrapping are the spec's own
choices D11, D12 (log 19). Where a cost is charged is the spec's own choice D9 (log 8). The register
fields and bits D1, D2 and the layouts D5 are the spec's own choices (logs 13, 14). -/
def Obligations.LineDrawsTheBresenhamPoints : Prop :=
  ∀ (s : State) (l : Layout) (lo : BitVec 4), s.Starts l →
    let nx := s.regs.nx.toNat
    let ny := s.regs.ny.toNat
    let minor : Nat → Nat := fun k => if nx < ny then k else (k * ny + nx / 2) / nx
    let point : Nat → Int × Int := fun k =>
      if s.regs[13].getLsbD 0 then
        (s.regs.dx.toNat + minor k * xStep s.regs, s.regs.dy.toNat + k * yStep s.regs)
      else (s.regs.dx.toNat + k * xStep s.regs, s.regs.dy.toNat + minor k * yStep s.regs)
    let points := (List.range (nx + 1)).map point
    let drawn := points.foldl (fun u p => u.setPixel l p.1 p.2 s.regs[12] lo) s
    ∃ t, exec (.cmdLine lo) s = .next t ∧ t.vram = drawn.vram ∧ t.draws = drawn.draws ∧
      t.lastCost = (nx + 1) * Config.costTable .line l s.blank ∧
      (Memory.wf s.vram → ∀ a : VramAddr,
        (∀ p ∈ points, l.address s.params.planarG6G7 p.1 p.2 ≠ a) → t.vram.read a = s.vram.read a)

/-! ## Logical moves -/

/-- LMMV and LMMM write the rectangle row by row, pixel by pixel, in the direction of the signs, each
read seeing every earlier write, for every size and every logical operation (43_logical_moves.md
R160 to R163). Not clipping is the spec's own choice D12 (log 19). Where a cost is charged is the
spec's own choice D9 (log 8). The register fields and bits D1, D2 and the layouts D5 are the spec's
own choices (logs 13, 14). -/
def Obligations.LogicalMovesRunSequentially : Prop :=
  ∀ (s : State) (l : Layout) (lo : BitVec 4), s.Starts l →
    let nx := s.regs.nx.toNat
    let ny := s.regs.ny.toNat
    let dx : Nat → Int := fun i => s.regs.dx.toNat + i * xStep s.regs
    let dy : Nat → Int := fun j => s.regs.dy.toNat + j * yStep s.regs
    let sx : Nat → Int := fun i => s.regs.sx.toNat + i * xStep s.regs
    let sy : Nat → Int := fun j => s.regs.sy.toNat + j * yStep s.regs
    let filled := overRectangle nx ny (fun i j u => u.setPixel l (dx i) (dy j) s.regs[12] lo) s
    let copied := overRectangle nx ny
      (fun i j u => u.setPixel l (dx i) (dy j) (u.getPixel l (sx i) (sy j)) lo) s
    (∃ t, exec (.cmdLmmv lo) s = .next t ∧ t.vram = filled.vram ∧ t.draws = filled.draws ∧
      t.lastCost = nx * ny * Config.costTable .lmmv l s.blank) ∧
    (∃ t, exec (.cmdLmmm lo) s = .next t ∧ t.vram = copied.vram ∧ t.draws = copied.draws ∧
      t.lastCost = nx * ny * Config.costTable .lmmm l s.blank)

/-- LMMV composites colour CL into every pixel of the rectangle once and into no other, where no pixel
is visited twice (43_logical_moves.md R160, R161). Wrapping is the spec's own choice D12, the
numbering D4 (logs 15, 19). The register fields and bits D1, D2 and the layouts D5 are the spec's
own choices (logs 13, 14). -/
def Obligations.FillCompositesTheRectangle : Prop :=
  ∀ (s : State) (l : Layout) (lo : BitVec 4), s.Starts l → Memory.wf s.vram → ¬ reservedCode lo →
    s.regs.nx.toNat ≤ l.pageWidth.toNat → s.regs.ny.toNat ≤ l.rows →
    let dx : Nat → Int := fun i => s.regs.dx.toNat + i * xStep s.regs
    let dy : Nat → Int := fun j => s.regs.dy.toNat + j * yStep s.regs
    ∃ t, exec (.cmdLmmv lo) s = .next t ∧
      (∀ i j, i < s.regs.nx.toNat → j < s.regs.ny.toNat →
        combine lo (s.regs[12] &&& l.pixelMask) (s.getPixel l (dx i) (dy j)) l.pixelMask
          = some (t.getPixel l (dx i) (dy j))) ∧
      (∀ x y, (∀ i j, i < s.regs.nx.toNat → j < s.regs.ny.toNat → ¬ samePixel l (dx i) (dy j) x y) →
        t.getPixel l x y = s.getPixel l x y)

/-- LMMM is memmove-safe: where no coordinate wraps, and the signs satisfy (a) or (b) of
43_logical_moves.md R164 or the rectangles do not overlap, every destination pixel is composited
from the source pixel as it was before the operation, and no other pixel changes. The numbering of
the codes is the spec's own choice D4 (log 15). The register fields and bits D1, D2 and the layouts
D5 are the spec's own choices (logs 13, 14). -/
def Obligations.CopyIsMemmoveSafe : Prop :=
  ∀ (s : State) (l : Layout) (lo : BitVec 4), s.Starts l → Memory.wf s.vram → ¬ reservedCode lo →
    let nx := s.regs.nx.toNat
    let ny := s.regs.ny.toNat
    let tx := xStep s.regs
    let ty := yStep s.regs
    let sx₀ : Int := s.regs.sx.toNat
    let sy₀ : Int := s.regs.sy.toNat
    let dx₀ : Int := s.regs.dx.toNat
    let dy₀ : Int := s.regs.dy.toNat
    let inRow : Int → Prop := fun x => 0 ≤ x ∧ x < l.pageWidth.toNat
    let inPage : Int → Prop := fun y => 0 ≤ y ∧ y < l.rows
    (∀ i : Nat, i < nx → inRow (sx₀ + i * tx) ∧ inRow (dx₀ + i * tx)) →
    (∀ j : Nat, j < ny → inPage (sy₀ + j * ty) ∧ inPage (dy₀ + j * ty)) →
    (0 < (sy₀ - dy₀) * ty ∨ (sy₀ = dy₀ ∧ 0 ≤ (sx₀ - dx₀) * tx) ∨
      ∀ i i' j j' : Nat, i < nx → i' < nx → j < ny → j' < ny →
        ¬ (sx₀ + i * tx = dx₀ + i' * tx ∧ sy₀ + j * ty = dy₀ + j' * ty)) →
    ∃ t, exec (.cmdLmmm lo) s = .next t ∧
      (∀ i j : Nat, i < nx → j < ny →
        combine lo (s.getPixel l (sx₀ + i * tx) (sy₀ + j * ty))
            (s.getPixel l (dx₀ + i * tx) (dy₀ + j * ty)) l.pixelMask
          = some (t.getPixel l (dx₀ + i * tx) (dy₀ + j * ty))) ∧
      (∀ x y, (∀ i j : Nat, i < nx → j < ny → ¬ samePixel l (dx₀ + i * tx) (dy₀ + j * ty) x y) →
        t.getPixel l x y = s.getPixel l x y)

/-! ## Transfers -/

/-- RP with an LMCM active returns the pixel at (ASX, SY) as VRAM holds it now, charges one cost and
moves on; the last pixel clears TR and CE (43_logical_moves.md R166, R167). Reading at the poll and
the zero bits above are the spec's own choice D15 (log 20). Where a cost is charged is the spec's
own choice D9 (log 8). -/
def Obligations.PixelReadDeliversAndMovesOn : Prop :=
  ∀ (s : State) (g : Geom), s.Unmarked → s.ce = true → s.geom = some g → g.cm = .lmcm →
    1 ≤ g.anx.val → 1 ≤ g.ny.val →
    let p := s.getPixel g.gl g.asx g.sy
    let opc := g.opc + Config.costTable .lmcm g.gl s.blank
    (2 ≤ g.anx.val → ∃ n : Fin 512, n.val = g.anx.val - 1 ∧
      exec .rp s = .next { s with
        replies := s.replies ++ [p]
        geom := some { g with asx := g.asx + g.tx.toInt, anx := n, opc := opc } }) ∧
    (g.anx.val = 1 → 2 ≤ g.ny.val → ∃ n : Fin 1024, n.val = g.ny.val - 1 ∧
      exec .rp s = .next { s with
        replies := s.replies ++ [p]
        geom := some { g with ny := n, sy := g.sy + g.ty.toInt, asx := g.sx, anx := g.nx, opc := opc } }) ∧
    (g.anx.val = 1 → g.ny.val = 1 →
      exec .rp s = .next { s with
        replies := s.replies ++ [p]
        geom := none
        ce := false
        tr := false
        lastCost := opc })

/-- RP with no LMCM active raises PixelReadWhenInactive, returns no value and changes no other state
(60_exceptions.md R201, R206). The fault as a mark is the spec's own choice D18; that the call which
sets it answers a next state is the model's reading (log 2). -/
def Obligations.PixelReadWhenInactiveRaisesTheFault : Prop :=
  ∀ s : State, s.Unmarked → (s.ce = false ∨ ∀ g, s.geom = some g → g.cm ≠ .lmcm) →
    exec .rp s = .next { s with fault := some .pixelReadWhenInactive }

/-- WR 12 with an LMMC active composites the byte at (ADX, DY), charges one cost and moves on; the last
pixel clears TR and CE (43_logical_moves.md R169). Every pixel coming from a write after the start
is the spec's own choice D15 (log 20). Where a cost is charged is the spec's own choice D9 (log 8). -/
def Obligations.PixelWriteCompositesAndMovesOn : Prop :=
  ∀ (s : State) (g : Geom) (v : Byte), s.Unmarked → s.ce = true → s.geom = some g → g.cm = .lmmc →
    1 ≤ g.anx.val → 1 ≤ g.ny.val →
    let u := s.setPixel g.gl g.adx g.dy v g.lo
    let opc := g.opc + Config.costTable .lmmc g.gl s.blank
    (2 ≤ g.anx.val → ∃ n : Fin 512, n.val = g.anx.val - 1 ∧
      exec (.wrClr v) s = .next { s with
        regs := s.regs.set 12 v
        vram := u.vram
        draws := u.draws
        geom := some { g with adx := g.adx + g.tx.toInt, anx := n, opc := opc } }) ∧
    (g.anx.val = 1 → 2 ≤ g.ny.val → ∃ n : Fin 1024, n.val = g.ny.val - 1 ∧
      exec (.wrClr v) s = .next { s with
        regs := s.regs.set 12 v
        vram := u.vram
        draws := u.draws
        geom := some { g with ny := n, dy := g.dy + g.ty.toInt, adx := g.dx, anx := g.nx, opc := opc } }) ∧
    (g.anx.val = 1 → g.ny.val = 1 →
      exec (.wrClr v) s = .next { s with
        regs := s.regs.set 12 v
        vram := u.vram
        draws := u.draws
        geom := none
        ce := false
        tr := false
        lastCost := opc })

/-- WR 12 with an HMMC active overwrites the byte in column ADX of row DY, charges one cost and moves
on; the last byte clears TR and CE (44_high_speed_moves.md R188). Byte units are the spec's own
choice D13 (log 21). Where a cost is charged is the spec's own choice D9 (log 8). -/
def Obligations.ByteWriteOverwritesAndMovesOn : Prop :=
  ∀ (s : State) (g : Geom) (v : Byte), s.Unmarked → s.ce = true → s.geom = some g → g.cm = .hmmc →
    1 ≤ g.anx.val → 1 ≤ g.ny.val →
    let m := s.vram.write (g.gl.byteAddress s.params.planarG6G7 g.adx g.dy) v
    let opc := g.opc + Config.costTable .hmmc g.gl s.blank
    (2 ≤ g.anx.val → ∃ n : Fin 512, n.val = g.anx.val - 1 ∧
      exec (.wrClr v) s = .next { s with
        regs := s.regs.set 12 v
        vram := m
        geom := some { g with adx := g.adx + g.tx.toInt, anx := n, opc := opc } }) ∧
    (g.anx.val = 1 → 2 ≤ g.ny.val → ∃ n : Fin 1024, n.val = g.ny.val - 1 ∧
      exec (.wrClr v) s = .next { s with
        regs := s.regs.set 12 v
        vram := m
        geom := some { g with ny := n, dy := g.dy + g.ty.toInt, adx := g.dx, anx := g.nx, opc := opc } }) ∧
    (g.anx.val = 1 → g.ny.val = 1 →
      exec (.wrClr v) s = .next { s with
        regs := s.regs.set 12 v
        vram := m
        geom := none
        ce := false
        tr := false
        lastCost := opc })

/-- A fed transfer changes no VRAM byte but the one at the position it stands at (43_logical_moves.md R169,
44_high_speed_moves.md R188). -/
def Obligations.TransferWriteKeepsBytesOutside : Prop :=
  ∀ (s t : State) (g : Geom) (v : Byte), Memory.wf s.vram → s.geom = some g →
    exec (.wrClr v) s = .next t →
    (g.cm = .lmmc → ∀ a : VramAddr, g.gl.address s.params.planarG6G7 g.adx g.dy ≠ a →
      t.vram.read a = s.vram.read a) ∧
    (g.cm = .hmmc → ∀ a : VramAddr, g.gl.byteAddress s.params.planarG6G7 g.adx g.dy ≠ a →
      t.vram.read a = s.vram.read a)

/-- A transfer at the start of its rectangle takes exactly NX * NY calls: CE and TR stay 1 and the k-th
call stands at column `k mod NX` of row `k div NX` until then, and the last call clears both
(70_reset_and_hazards.md R224, 43_logical_moves.md R166, R169, R171, 44_high_speed_moves.md R188).
HMMC as a transfer is the spec's resolution C1, its byte units D13, TR staying 1 D15 (logs 20, 21). -/
def Obligations.TransferEndsWithItsLastCall : Prop :=
  ∀ (s : State) (g : Geom) (calls : List Instr), s.Unmarked → s.Inv → s.geom = some g →
    g.anx = g.nx →
    (∀ i ∈ calls, if g.cm = .lmcm then i = .rp else ∃ v, i = .wrClr v) →
    (calls.length < g.nx.val * g.ny.val → ∃ t g', feed calls s = .next t ∧ t.Unmarked ∧ t.ce = true ∧
      t.tr = true ∧ t.geom = some g' ∧ g'.cm = g.cm ∧
      (g.cm = .lmcm → g'.asx = g.sx + (calls.length % g.nx.val : Nat) * g.tx.toInt ∧
        g'.sy = g.sy + (calls.length / g.nx.val : Nat) * g.ty.toInt) ∧
      (g.cm ≠ .lmcm → g'.adx = g.dx + (calls.length % g.nx.val : Nat) * g.tx.toInt ∧
        g'.dy = g.dy + (calls.length / g.nx.val : Nat) * g.ty.toInt)) ∧
    (calls.length = g.nx.val * g.ny.val → ∃ t, feed calls s = .next t ∧ t.Unmarked ∧ t.ce = false ∧
      t.tr = false ∧ t.geom = none)

/-! ## High-speed moves -/

/-- HMMV, HMMM and YMMM write whole bytes row by row, column by column, each read seeing every earlier
write; LO has no part in it (44_high_speed_moves.md R182 to R186). YMMM's columns run from DX to the
edge. Byte units and YMMM's extent are the spec's own choices D13, D14 (log 21). Where a cost is
charged is the spec's own choice D9 (log 8). The register fields and bits D1, D2 and the layouts D5
are the spec's own choices (logs 13, 14). -/
def Obligations.HighSpeedMovesRunSequentially : Prop :=
  ∀ (s : State) (l : Layout) (lo : BitVec 4), s.Starts l →
    let nx := s.regs.nx.toNat / l.pixelsPerByte
    let ny := s.regs.ny.toNat
    let dx : Nat → Int := fun i => (s.regs.dx.toNat / l.pixelsPerByte : Nat) + i * xStep s.regs
    let sx : Nat → Int := fun i => (s.regs.sx.toNat / l.pixelsPerByte : Nat) + i * xStep s.regs
    let dy : Nat → Int := fun j => s.regs.dy.toNat + j * yStep s.regs
    let sy : Nat → Int := fun j => s.regs.sy.toNat + j * yStep s.regs
    let bx₀ : Nat := s.regs.dx.toNat / l.pixelsPerByte % l.bytesPerRow
    let bx : Nat → Int := fun k => bx₀ + k * xStep s.regs
    let n : Nat := if s.regs[13].getLsbD 2 then bx₀ + 1 else l.bytesPerRow - bx₀
    let filled := overRectangle nx ny (fun i j u => u.writeByteAt l (dx i) (dy j) s.regs[12]) s
    let copied := overRectangle nx ny
      (fun i j u => u.writeByteAt l (dx i) (dy j) (u.readByteAt l (sx i) (sy j))) s
    let moved := overRectangle n ny
      (fun k j u => u.writeByteAt l (bx k) (dy j) (u.readByteAt l (bx k) (sy j))) s
    (∃ t, exec (.cmdHmmv lo) s = .next t ∧ t.vram = filled.vram ∧ t.draws = s.draws ∧
      t.lastCost = nx * ny * Config.costTable .hmmv l s.blank) ∧
    (∃ t, exec (.cmdHmmm lo) s = .next t ∧ t.vram = copied.vram ∧ t.draws = s.draws ∧
      t.lastCost = nx * ny * Config.costTable .hmmm l s.blank) ∧
    (s.regs.nx ≠ 0 → ∃ t, exec (.cmdYmmm lo) s = .next t ∧ t.vram = moved.vram ∧ t.draws = s.draws ∧
      t.lastCost = n * ny * Config.costTable .ymmm l s.blank)

/-- HMMV leaves the whole byte CL in every byte of the rectangle and every other byte as it was
(44_high_speed_moves.md R182). Byte units are the spec's own choice D13 (log 21). The register
fields and bits D1, D2 and the layouts D5 are the spec's own choices (logs 13, 14). -/
def Obligations.ByteFillWritesTheRectangle : Prop :=
  ∀ (s : State) (l : Layout) (lo : BitVec 4), s.Starts l → Memory.wf s.vram →
    let at' : Nat → Nat → VramAddr := fun i j =>
      l.byteAddress s.params.planarG6G7
        ((s.regs.dx.toNat / l.pixelsPerByte : Nat) + i * xStep s.regs)
        (s.regs.dy.toNat + j * yStep s.regs)
    let inside : VramAddr → Prop := fun a =>
      ∃ i j, i < s.regs.nx.toNat / l.pixelsPerByte ∧ j < s.regs.ny.toNat ∧ at' i j = a
    ∃ t, exec (.cmdHmmv lo) s = .next t ∧ ∀ a,
      (inside a → t.vram.read a = s.regs[12]) ∧ (¬ inside a → t.vram.read a = s.vram.read a)

/-- HMMM is memmove-safe at byte granularity, under the conditions of 43_logical_moves.md R164 with byte
columns for pixels (44_high_speed_moves.md R183). Byte units are the spec's own choice D13 (log 21).
The register fields and bits D1, D2 and the layouts D5 are the spec's own choices (logs 13, 14). -/
def Obligations.ByteCopyIsMemmoveSafe : Prop :=
  ∀ (s : State) (l : Layout) (lo : BitVec 4), s.Starts l → Memory.wf s.vram →
    let nx := s.regs.nx.toNat / l.pixelsPerByte
    let ny := s.regs.ny.toNat
    let tx := xStep s.regs
    let ty := yStep s.regs
    let sx₀ : Int := (s.regs.sx.toNat / l.pixelsPerByte : Nat)
    let dx₀ : Int := (s.regs.dx.toNat / l.pixelsPerByte : Nat)
    let sy₀ : Int := s.regs.sy.toNat
    let dy₀ : Int := s.regs.dy.toNat
    let inRow : Int → Prop := fun x => 0 ≤ x ∧ x < l.bytesPerRow
    let inPage : Int → Prop := fun y => 0 ≤ y ∧ y < l.rows
    let at' : Int → Int → VramAddr := fun x y => l.byteAddress s.params.planarG6G7 x y
    (∀ i : Nat, i < nx → inRow (sx₀ + i * tx) ∧ inRow (dx₀ + i * tx)) →
    (∀ j : Nat, j < ny → inPage (sy₀ + j * ty) ∧ inPage (dy₀ + j * ty)) →
    (0 < (sy₀ - dy₀) * ty ∨ (sy₀ = dy₀ ∧ 0 ≤ (sx₀ - dx₀) * tx) ∨
      ∀ i i' j j' : Nat, i < nx → i' < nx → j < ny → j' < ny →
        ¬ (sx₀ + i * tx = dx₀ + i' * tx ∧ sy₀ + j * ty = dy₀ + j' * ty)) →
    ∃ t, exec (.cmdHmmm lo) s = .next t ∧
      (∀ i j : Nat, i < nx → j < ny →
        t.vram.read (at' (dx₀ + i * tx) (dy₀ + j * ty))
          = s.vram.read (at' (sx₀ + i * tx) (sy₀ + j * ty))) ∧
      (∀ a, (∀ i j : Nat, i < nx → j < ny → at' (dx₀ + i * tx) (dy₀ + j * ty) ≠ a) →
        t.vram.read a = s.vram.read a)

/-- YMMM copies the byte columns from DX to the edge in direction TX between the rows SY + j*TY and DY +
j*TY, and no other byte, where no row wraps and the signs are memmove-safe or SY = DY
(44_high_speed_moves.md R184). YMMM's extent is the spec's own choice D14 (log 21). The register
fields and bits D1, D2 and the layouts D5 are the spec's own choices (logs 13, 14). -/
def Obligations.ColumnCopyMovesRows : Prop :=
  ∀ (s : State) (l : Layout) (lo : BitVec 4), s.Starts l → Memory.wf s.vram → s.regs.nx ≠ 0 →
    let ny := s.regs.ny.toNat
    let tx := xStep s.regs
    let ty := yStep s.regs
    let sy₀ : Int := s.regs.sy.toNat
    let dy₀ : Int := s.regs.dy.toNat
    let bx₀ : Nat := s.regs.dx.toNat / l.pixelsPerByte % l.bytesPerRow
    let n : Nat := if s.regs[13].getLsbD 2 then bx₀ + 1 else l.bytesPerRow - bx₀
    let at' : Int → Int → VramAddr := fun x y => l.byteAddress s.params.planarG6G7 x y
    (∀ j : Nat, j < ny → 0 ≤ sy₀ + j * ty ∧ sy₀ + j * ty < l.rows ∧ 0 ≤ dy₀ + j * ty ∧
      dy₀ + j * ty < l.rows) →
    0 ≤ (sy₀ - dy₀) * ty →
    ∃ t, exec (.cmdYmmm lo) s = .next t ∧
      (∀ k j : Nat, k < n → j < ny →
        t.vram.read (at' (bx₀ + k * tx) (dy₀ + j * ty)) = s.vram.read (at' (bx₀ + k * tx) (sy₀ + j * ty))) ∧
      (∀ a, (∀ k j : Nat, k < n → j < ny → at' (bx₀ + k * tx) (dy₀ + j * ty) ≠ a) →
        t.vram.read a = s.vram.read a)

/-- Every VRAM byte outside the rectangle a move addresses keeps its value: pixels for LMMV and LMMM
(43_logical_moves.md R161), byte columns for HMMM and, from DX to the edge, for YMMM
(44_high_speed_moves.md R183, R184). Byte units and YMMM's extent are the spec's own choices D13,
D14 (log 21). The register fields and bits D1, D2 and the layouts D5 are the spec's own choices
(logs 13, 14). Wrapping is the spec's own choice D12 (log 19). -/
def Obligations.MovesKeepBytesOutsideTheRectangle : Prop :=
  ∀ (s : State) (l : Layout) (lo : BitVec 4), s.Starts l → Memory.wf s.vram →
    let dy : Nat → Int := fun j => s.regs.dy.toNat + j * yStep s.regs
    let bx₀ : Nat := s.regs.dx.toNat / l.pixelsPerByte
    let n : Nat := if s.regs[13].getLsbD 2 then bx₀ % l.bytesPerRow + 1
      else l.bytesPerRow - bx₀ % l.bytesPerRow
    (∀ c ∈ [Instr.cmdLmmv lo, .cmdLmmm lo], ∃ t, exec c s = .next t ∧ ∀ a : VramAddr,
      (∀ i j : Nat, i < s.regs.nx.toNat → j < s.regs.ny.toNat →
        l.address s.params.planarG6G7 (s.regs.dx.toNat + i * xStep s.regs) (dy j) ≠ a) →
      t.vram.read a = s.vram.read a) ∧
    (∃ t, exec (.cmdHmmm lo) s = .next t ∧ ∀ a : VramAddr,
      (∀ i j : Nat, i < s.regs.nx.toNat / l.pixelsPerByte → j < s.regs.ny.toNat →
        l.byteAddress s.params.planarG6G7 (bx₀ + i * xStep s.regs) (dy j) ≠ a) →
      t.vram.read a = s.vram.read a) ∧
    (∃ t, exec (.cmdYmmm lo) s = .next t ∧ ∀ a : VramAddr,
      (∀ k j : Nat, k < n → j < s.regs.ny.toNat →
        l.byteAddress s.params.planarG6G7 ((bx₀ % l.bytesPerRow : Nat) + k * xStep s.regs) (dy j) ≠ a) →
      t.vram.read a = s.vram.read a)

/-! ## Whole-machine rules -/

/-- The invariant holds at reset. The reset values are the spec's own choice D17 (log 22). -/
def Obligations.InvariantAtReset : Prop := State.reset.Inv

/-- Every step keeps the invariant: CE exactly with a geometry (10_state.md R25), TR exactly in a
transfer (R26), only a transfer between calls (R31), its position in range (R32), border X in range
(R28), VRAM canonical. The range of border X is the spec's own choice D24 (log 17). -/
def Obligations.StepKeepsTheInvariant : Prop :=
  ∀ s t : State, s.Inv → step s = .next t → t.Inv

/-- In a state of the invariant the position of an active transfer lies in the ranges of 10_state.md R32
and border X in that of R28, CE is 1 exactly with a geometry (R25), and TR is 1 only with a transfer
(R26). R32 is the spec's inference from R30 and R81, border X's range its own choice D24 (log 17).
The field widths D1 behind those ranges are the spec's own choice (log 13). -/
def Obligations.InvariantGivesTheRanges : Prop :=
  ∀ s : State, s.Inv →
    (s.ce = true ↔ ∃ g, s.geom = some g) ∧
    (s.tr = true → ∃ g, s.geom = some g ∧ (g.cm = .lmcm ∨ g.cm = .lmmc ∨ g.cm = .hmmc)) ∧
    (-1 ≤ s.borderX ∧ s.borderX ≤ 512) ∧
    ∀ g, s.geom = some g → -511 ≤ g.asx ∧ g.asx ≤ 1022 ∧ -511 ≤ g.adx ∧ g.adx ≤ 1022 ∧
      -1023 ≤ g.sy ∧ g.sy ≤ 2046 ∧ -1023 ≤ g.dy ∧ g.dy ≤ 2046

/-- No rule reads the cost counter or the blanking flag but to count cost: states that differ in them
alone are taken by every call to states that differ in them alone (10_state.md R33, 40_dispatch.md
R123). That no rule reads the counter is the spec's own choice D9 (log 8). -/
def Obligations.CostInfluencesNothingElse : Prop :=
  ∀ (i : Instr) (s s' : State), s.eraseCost = s'.eraseCost →
    mapNext State.eraseCost (exec i s) = mapNext State.eraseCost (exec i s')

/-- No rule reads the virtual time: a call at another time does the same (40_dispatch.md R120); nor does
a call read the inputs after it. That no rule reads the time is the spec's own choice D20 (log 22). -/
def Obligations.VirtualTimeIsNotRead : Prop :=
  ∀ (i : Instr) (s : State) (time : Nat) (rest : List Input),
    exec i { s with time := time, inbox := rest } =
      mapNext (fun t => { t with time := time, inbox := rest }) (exec i s)

/-- No call changes the OPEN parameters, the time, the inputs to come or, but for SAVE, the record held;
what the reads returned is only added to. These fields are the model's (logs 1, 9, 10, 11, 12). -/
def Obligations.CallsLeaveTheWorldAlone : Prop :=
  ∀ (i : Instr) (s t : State), exec i s = .next t →
    t.params = s.params ∧ t.time = s.time ∧ t.blank = s.blank ∧ t.inbox = s.inbox ∧
    (i ≠ .save → t.saved = s.saved) ∧ ((i ≠ .rs ∧ i ≠ .rp) → t.replies = s.replies) ∧
    ∃ l, t.replies = s.replies ++ l
end

