-- ==== Sys2Proof/Laws/Memory.lean ====
section
/-! SUPPORT. Video memory: every write keeps the canonical form, and reads give back what was written. -/

namespace Sys2Proof.Machine

theorem Memory.wf_nil : Memory.wf [] := by simp [Memory.wf]

theorem Memory.wf_cons {k : Nat} {v : Byte} {m : Memory} :
    Memory.wf ((k, v) :: m) ↔
      (∀ c ∈ m, k < c.1) ∧ (k < Config.vramSize ∧ v ≠ Memory.unlisted) ∧ Memory.wf m := by
  simp only [Memory.wf, List.pairwise_cons, List.forall_mem_cons]
  tauto

/-- Addresses of a written memory are old addresses or the address written. -/
theorem Memory.mem_writeCell {m : Memory} {a : Nat} {v : Byte} {c : Host.Cell}
    (h : c ∈ Memory.writeCell m a v) : c ∈ m ∨ c = (a, v) := by
  induction m with
  | nil => simp only [Memory.writeCell] at h; split at h <;> simp_all
  | cons d m ih =>
    obtain ⟨k, w⟩ := d
    simp only [Memory.writeCell] at h
    split at h
    · split at h <;> (simp_all; try tauto)
    · split at h
      · split at h <;> (simp_all; try tauto)
      · rcases List.mem_cons.1 h with h | h
        · exact .inl (by simp [h])
        · rcases ih h with h | h
          · exact .inl (by simp [h])
          · exact .inr h

theorem Memory.writeCell_wf {m : Memory} (hm : Memory.wf m) {a : Nat} (ha : a < Config.vramSize)
    (v : Byte) : Memory.wf (Memory.writeCell m a v) := by
  induction m with
  | nil =>
    simp only [Memory.writeCell]
    split
    · exact hm
    · exact Memory.wf_cons.2 ⟨by simp, ⟨ha, by assumption⟩, hm⟩
  | cons d m ih =>
    obtain ⟨k, w⟩ := d
    obtain ⟨hk, hw, hm'⟩ := Memory.wf_cons.1 hm
    simp only [Memory.writeCell]
    split
    · split
      · exact hm
      · refine Memory.wf_cons.2 ⟨fun c hc => ?_, ⟨ha, by assumption⟩, hm⟩
        rcases List.mem_cons.1 hc with rfl | hc
        · assumption
        · exact Nat.lt_trans (by assumption) (hk c hc)
    · split
      · subst_vars
        split
        · exact hm'
        · exact Memory.wf_cons.2 ⟨hk, ⟨ha, by assumption⟩, hm'⟩
      · refine Memory.wf_cons.2 ⟨fun c hc => ?_, hw, ih hm'⟩
        rcases Memory.mem_writeCell hc with hc | rfl
        · exact hk c hc
        · show k < a
          omega

/-- Below every listed address a memory reads as an unlisted one. -/
theorem Memory.readCell_below {m : Memory} {a : Nat} (h : ∀ c ∈ m, a < c.1) :
    Memory.readCell m a = Memory.unlisted := by
  cases m with
  | nil => rfl
  | cons d m => simp [Memory.readCell, h d (by simp)]

theorem Memory.readCell_writeCell {m : Memory} (hm : Memory.wf m) (a b : Nat) (v : Byte) :
    Memory.readCell (Memory.writeCell m a v) b = if b = a then v else Memory.readCell m b := by
  induction m with
  | nil =>
    simp only [Memory.writeCell]
    split <;> simp only [Memory.readCell] <;> grind
  | cons d m ih =>
    obtain ⟨k, w⟩ := d
    obtain ⟨hk, hw, hm'⟩ := Memory.wf_cons.1 hm
    have below : ∀ c, c ≤ k → Memory.readCell m c = Memory.unlisted := fun c hc =>
      Memory.readCell_below fun e he => Nat.lt_of_le_of_lt hc (hk e he)
    simp only [Memory.writeCell]
    split
    · split <;> simp only [Memory.readCell] <;> grind
    · split
      · subst_vars
        split <;> simp only [Memory.readCell] <;> grind
      · simp only [Memory.readCell, ih hm']
        grind

theorem Memory.write_wf {m : Memory} (hm : Memory.wf m) (a : VramAddr) (v : Byte) :
    Memory.wf (m.write a v) :=
  Memory.writeCell_wf hm a.isLt v

/-- A read gives the byte last written at its address, and is not touched by a write elsewhere
(20_memory.md R70). -/
theorem Memory.read_write {m : Memory} (hm : Memory.wf m) (a b : VramAddr) (v : Byte) :
    (m.write a v).read b = if b = a then v else m.read b := by
  simp only [Memory.read, Memory.write, Memory.readCell_writeCell hm, BitVec.toNat_inj]

end Sys2Proof.Machine
end

