-- ==== Sys2Proof/Laws/State.lean ====
section
/-! SUPPORT. One lemma per field per state operation, so that no proof unfolds a record update. -/

namespace Sys2Proof.Machine

variable {s : State}

/-! ## raiseFault -/

@[simp] theorem raiseFault_regs {r : Fault} : (s.raiseFault r).regs = s.regs := rfl
@[simp] theorem raiseFault_tr {r : Fault} : (s.raiseFault r).tr = s.tr := rfl
@[simp] theorem raiseFault_bd {r : Fault} : (s.raiseFault r).bd = s.bd := rfl
@[simp] theorem raiseFault_ce {r : Fault} : (s.raiseFault r).ce = s.ce := rfl
@[simp] theorem raiseFault_borderX {r : Fault} : (s.raiseFault r).borderX = s.borderX := rfl
@[simp] theorem raiseFault_mode {r : Fault} : (s.raiseFault r).mode = s.mode := rfl
@[simp] theorem raiseFault_geom {r : Fault} : (s.raiseFault r).geom = s.geom := rfl
@[simp] theorem raiseFault_lastCost {r : Fault} : (s.raiseFault r).lastCost = s.lastCost := rfl
@[simp] theorem raiseFault_refused {r : Fault} : (s.raiseFault r).refused = s.refused := rfl
@[simp] theorem raiseFault_fault {r : Fault} : (s.raiseFault r).fault = some r := rfl
@[simp] theorem raiseFault_vram {r : Fault} : (s.raiseFault r).vram = s.vram := rfl
@[simp] theorem raiseFault_saved {r : Fault} : (s.raiseFault r).saved = s.saved := rfl
@[simp] theorem raiseFault_time {r : Fault} : (s.raiseFault r).time = s.time := rfl
@[simp] theorem raiseFault_blank {r : Fault} : (s.raiseFault r).blank = s.blank := rfl
@[simp] theorem raiseFault_inbox {r : Fault} : (s.raiseFault r).inbox = s.inbox := rfl
@[simp] theorem raiseFault_replies {r : Fault} : (s.raiseFault r).replies = s.replies := rfl
@[simp] theorem raiseFault_params {r : Fault} : (s.raiseFault r).params = s.params := rfl
@[simp] theorem raiseFault_draws {r : Fault} : (s.raiseFault r).draws = s.draws := rfl

/-! ## refuse -/

@[simp] theorem refuse_regs {r : RefuseReason} : (s.refuse r).regs = s.regs := rfl
@[simp] theorem refuse_tr {r : RefuseReason} : (s.refuse r).tr = s.tr := rfl
@[simp] theorem refuse_bd {r : RefuseReason} : (s.refuse r).bd = s.bd := rfl
@[simp] theorem refuse_ce {r : RefuseReason} : (s.refuse r).ce = s.ce := rfl
@[simp] theorem refuse_borderX {r : RefuseReason} : (s.refuse r).borderX = s.borderX := rfl
@[simp] theorem refuse_mode {r : RefuseReason} : (s.refuse r).mode = s.mode := rfl
@[simp] theorem refuse_geom {r : RefuseReason} : (s.refuse r).geom = s.geom := rfl
@[simp] theorem refuse_lastCost {r : RefuseReason} : (s.refuse r).lastCost = s.lastCost := rfl
@[simp] theorem refuse_refused {r : RefuseReason} : (s.refuse r).refused = some r := rfl
@[simp] theorem refuse_fault {r : RefuseReason} : (s.refuse r).fault = s.fault := rfl
@[simp] theorem refuse_vram {r : RefuseReason} : (s.refuse r).vram = s.vram := rfl
@[simp] theorem refuse_saved {r : RefuseReason} : (s.refuse r).saved = s.saved := rfl
@[simp] theorem refuse_time {r : RefuseReason} : (s.refuse r).time = s.time := rfl
@[simp] theorem refuse_blank {r : RefuseReason} : (s.refuse r).blank = s.blank := rfl
@[simp] theorem refuse_inbox {r : RefuseReason} : (s.refuse r).inbox = s.inbox := rfl
@[simp] theorem refuse_replies {r : RefuseReason} : (s.refuse r).replies = s.replies := rfl
@[simp] theorem refuse_params {r : RefuseReason} : (s.refuse r).params = s.params := rfl
@[simp] theorem refuse_draws {r : RefuseReason} : (s.refuse r).draws = s.draws := rfl

/-! ## writeReg -/

@[simp] theorem writeReg_regs {i : Fin 15} {v : Byte} : (s.writeReg i v).regs = s.regs.set i v := rfl
@[simp] theorem writeReg_tr {i : Fin 15} {v : Byte} : (s.writeReg i v).tr = s.tr := rfl
@[simp] theorem writeReg_bd {i : Fin 15} {v : Byte} : (s.writeReg i v).bd = s.bd := rfl
@[simp] theorem writeReg_ce {i : Fin 15} {v : Byte} : (s.writeReg i v).ce = s.ce := rfl
@[simp] theorem writeReg_borderX {i : Fin 15} {v : Byte} : (s.writeReg i v).borderX = s.borderX := rfl
@[simp] theorem writeReg_mode {i : Fin 15} {v : Byte} : (s.writeReg i v).mode = s.mode := rfl
@[simp] theorem writeReg_geom {i : Fin 15} {v : Byte} : (s.writeReg i v).geom = s.geom := rfl
@[simp] theorem writeReg_lastCost {i : Fin 15} {v : Byte} : (s.writeReg i v).lastCost = s.lastCost := rfl
@[simp] theorem writeReg_refused {i : Fin 15} {v : Byte} : (s.writeReg i v).refused = s.refused := rfl
@[simp] theorem writeReg_fault {i : Fin 15} {v : Byte} : (s.writeReg i v).fault = s.fault := rfl
@[simp] theorem writeReg_vram {i : Fin 15} {v : Byte} : (s.writeReg i v).vram = s.vram := rfl
@[simp] theorem writeReg_saved {i : Fin 15} {v : Byte} : (s.writeReg i v).saved = s.saved := rfl
@[simp] theorem writeReg_time {i : Fin 15} {v : Byte} : (s.writeReg i v).time = s.time := rfl
@[simp] theorem writeReg_blank {i : Fin 15} {v : Byte} : (s.writeReg i v).blank = s.blank := rfl
@[simp] theorem writeReg_inbox {i : Fin 15} {v : Byte} : (s.writeReg i v).inbox = s.inbox := rfl
@[simp] theorem writeReg_replies {i : Fin 15} {v : Byte} : (s.writeReg i v).replies = s.replies := rfl
@[simp] theorem writeReg_params {i : Fin 15} {v : Byte} : (s.writeReg i v).params = s.params := rfl
@[simp] theorem writeReg_draws {i : Fin 15} {v : Byte} : (s.writeReg i v).draws = s.draws := rfl

/-! ## cost -/

@[simp] theorem cost_regs {k : CostClass} : (s.cost k).regs = s.regs := rfl
@[simp] theorem cost_tr {k : CostClass} : (s.cost k).tr = s.tr := rfl
@[simp] theorem cost_bd {k : CostClass} : (s.cost k).bd = s.bd := rfl
@[simp] theorem cost_ce {k : CostClass} : (s.cost k).ce = s.ce := rfl
@[simp] theorem cost_borderX {k : CostClass} : (s.cost k).borderX = s.borderX := rfl
@[simp] theorem cost_mode {k : CostClass} : (s.cost k).mode = s.mode := rfl
@[simp] theorem cost_geom {k : CostClass} : (s.cost k).geom = s.geom.map fun g => { g with opc := g.opc + Config.costTable k g.gl s.blank } := rfl
@[simp] theorem cost_lastCost {k : CostClass} : (s.cost k).lastCost = s.lastCost := rfl
@[simp] theorem cost_refused {k : CostClass} : (s.cost k).refused = s.refused := rfl
@[simp] theorem cost_fault {k : CostClass} : (s.cost k).fault = s.fault := rfl
@[simp] theorem cost_vram {k : CostClass} : (s.cost k).vram = s.vram := rfl
@[simp] theorem cost_saved {k : CostClass} : (s.cost k).saved = s.saved := rfl
@[simp] theorem cost_time {k : CostClass} : (s.cost k).time = s.time := rfl
@[simp] theorem cost_blank {k : CostClass} : (s.cost k).blank = s.blank := rfl
@[simp] theorem cost_inbox {k : CostClass} : (s.cost k).inbox = s.inbox := rfl
@[simp] theorem cost_replies {k : CostClass} : (s.cost k).replies = s.replies := rfl
@[simp] theorem cost_params {k : CostClass} : (s.cost k).params = s.params := rfl
@[simp] theorem cost_draws {k : CostClass} : (s.cost k).draws = s.draws := rfl

/-! ## finish -/

@[simp] theorem finish_regs : s.finish.regs = s.regs := rfl
@[simp] theorem finish_tr : s.finish.tr = false := rfl
@[simp] theorem finish_bd : s.finish.bd = s.bd := rfl
@[simp] theorem finish_ce : s.finish.ce = false := rfl
@[simp] theorem finish_borderX : s.finish.borderX = s.borderX := rfl
@[simp] theorem finish_mode : s.finish.mode = s.mode := rfl
@[simp] theorem finish_geom : s.finish.geom = none := rfl
@[simp] theorem finish_refused : s.finish.refused = s.refused := rfl
@[simp] theorem finish_fault : s.finish.fault = s.fault := rfl
@[simp] theorem finish_vram : s.finish.vram = s.vram := rfl
@[simp] theorem finish_saved : s.finish.saved = s.saved := rfl
@[simp] theorem finish_time : s.finish.time = s.time := rfl
@[simp] theorem finish_blank : s.finish.blank = s.blank := rfl
@[simp] theorem finish_inbox : s.finish.inbox = s.inbox := rfl
@[simp] theorem finish_replies : s.finish.replies = s.replies := rfl
@[simp] theorem finish_params : s.finish.params = s.params := rfl
@[simp] theorem finish_draws : s.finish.draws = s.draws := rfl

/-! ## writeByteAt -/

@[simp] theorem writeByteAt_regs {l : Layout} {bx y : Int} {v : Byte} : (s.writeByteAt l bx y v).regs = s.regs := rfl
@[simp] theorem writeByteAt_tr {l : Layout} {bx y : Int} {v : Byte} : (s.writeByteAt l bx y v).tr = s.tr := rfl
@[simp] theorem writeByteAt_bd {l : Layout} {bx y : Int} {v : Byte} : (s.writeByteAt l bx y v).bd = s.bd := rfl
@[simp] theorem writeByteAt_ce {l : Layout} {bx y : Int} {v : Byte} : (s.writeByteAt l bx y v).ce = s.ce := rfl
@[simp] theorem writeByteAt_borderX {l : Layout} {bx y : Int} {v : Byte} : (s.writeByteAt l bx y v).borderX = s.borderX := rfl
@[simp] theorem writeByteAt_mode {l : Layout} {bx y : Int} {v : Byte} : (s.writeByteAt l bx y v).mode = s.mode := rfl
@[simp] theorem writeByteAt_geom {l : Layout} {bx y : Int} {v : Byte} : (s.writeByteAt l bx y v).geom = s.geom := rfl
@[simp] theorem writeByteAt_lastCost {l : Layout} {bx y : Int} {v : Byte} : (s.writeByteAt l bx y v).lastCost = s.lastCost := rfl
@[simp] theorem writeByteAt_refused {l : Layout} {bx y : Int} {v : Byte} : (s.writeByteAt l bx y v).refused = s.refused := rfl
@[simp] theorem writeByteAt_fault {l : Layout} {bx y : Int} {v : Byte} : (s.writeByteAt l bx y v).fault = s.fault := rfl
@[simp] theorem writeByteAt_vram {l : Layout} {bx y : Int} {v : Byte} : (s.writeByteAt l bx y v).vram = s.vram.write (l.byteAddress s.params.planarG6G7 bx y) v := rfl
@[simp] theorem writeByteAt_saved {l : Layout} {bx y : Int} {v : Byte} : (s.writeByteAt l bx y v).saved = s.saved := rfl
@[simp] theorem writeByteAt_time {l : Layout} {bx y : Int} {v : Byte} : (s.writeByteAt l bx y v).time = s.time := rfl
@[simp] theorem writeByteAt_blank {l : Layout} {bx y : Int} {v : Byte} : (s.writeByteAt l bx y v).blank = s.blank := rfl
@[simp] theorem writeByteAt_inbox {l : Layout} {bx y : Int} {v : Byte} : (s.writeByteAt l bx y v).inbox = s.inbox := rfl
@[simp] theorem writeByteAt_replies {l : Layout} {bx y : Int} {v : Byte} : (s.writeByteAt l bx y v).replies = s.replies := rfl
@[simp] theorem writeByteAt_params {l : Layout} {bx y : Int} {v : Byte} : (s.writeByteAt l bx y v).params = s.params := rfl
@[simp] theorem writeByteAt_draws {l : Layout} {bx y : Int} {v : Byte} : (s.writeByteAt l bx y v).draws = s.draws := rfl

/-! ## readyForTransfer -/

@[simp] theorem readyForTransfer_regs : s.readyForTransfer.regs = s.regs := rfl
@[simp] theorem readyForTransfer_tr : s.readyForTransfer.tr = true := rfl
@[simp] theorem readyForTransfer_bd : s.readyForTransfer.bd = s.bd := rfl
@[simp] theorem readyForTransfer_ce : s.readyForTransfer.ce = s.ce := rfl
@[simp] theorem readyForTransfer_borderX : s.readyForTransfer.borderX = s.borderX := rfl
@[simp] theorem readyForTransfer_mode : s.readyForTransfer.mode = s.mode := rfl
@[simp] theorem readyForTransfer_geom : s.readyForTransfer.geom = s.geom := rfl
@[simp] theorem readyForTransfer_lastCost : s.readyForTransfer.lastCost = s.lastCost := rfl
@[simp] theorem readyForTransfer_refused : s.readyForTransfer.refused = s.refused := rfl
@[simp] theorem readyForTransfer_fault : s.readyForTransfer.fault = s.fault := rfl
@[simp] theorem readyForTransfer_vram : s.readyForTransfer.vram = s.vram := rfl
@[simp] theorem readyForTransfer_saved : s.readyForTransfer.saved = s.saved := rfl
@[simp] theorem readyForTransfer_time : s.readyForTransfer.time = s.time := rfl
@[simp] theorem readyForTransfer_blank : s.readyForTransfer.blank = s.blank := rfl
@[simp] theorem readyForTransfer_inbox : s.readyForTransfer.inbox = s.inbox := rfl
@[simp] theorem readyForTransfer_replies : s.readyForTransfer.replies = s.replies := rfl
@[simp] theorem readyForTransfer_params : s.readyForTransfer.params = s.params := rfl
@[simp] theorem readyForTransfer_draws : s.readyForTransfer.draws = s.draws := rfl

/-! ## reply -/

@[simp] theorem reply_regs {b : Byte} : (s.reply b).regs = s.regs := rfl
@[simp] theorem reply_tr {b : Byte} : (s.reply b).tr = s.tr := rfl
@[simp] theorem reply_bd {b : Byte} : (s.reply b).bd = s.bd := rfl
@[simp] theorem reply_ce {b : Byte} : (s.reply b).ce = s.ce := rfl
@[simp] theorem reply_borderX {b : Byte} : (s.reply b).borderX = s.borderX := rfl
@[simp] theorem reply_mode {b : Byte} : (s.reply b).mode = s.mode := rfl
@[simp] theorem reply_geom {b : Byte} : (s.reply b).geom = s.geom := rfl
@[simp] theorem reply_lastCost {b : Byte} : (s.reply b).lastCost = s.lastCost := rfl
@[simp] theorem reply_refused {b : Byte} : (s.reply b).refused = s.refused := rfl
@[simp] theorem reply_fault {b : Byte} : (s.reply b).fault = s.fault := rfl
@[simp] theorem reply_vram {b : Byte} : (s.reply b).vram = s.vram := rfl
@[simp] theorem reply_saved {b : Byte} : (s.reply b).saved = s.saved := rfl
@[simp] theorem reply_time {b : Byte} : (s.reply b).time = s.time := rfl
@[simp] theorem reply_blank {b : Byte} : (s.reply b).blank = s.blank := rfl
@[simp] theorem reply_inbox {b : Byte} : (s.reply b).inbox = s.inbox := rfl
@[simp] theorem reply_replies {b : Byte} : (s.reply b).replies = s.replies ++ [b] := rfl
@[simp] theorem reply_params {b : Byte} : (s.reply b).params = s.params := rfl
@[simp] theorem reply_draws {b : Byte} : (s.reply b).draws = s.draws := rfl

/-! ## load -/

@[simp] theorem load_regs {r : Record} : (s.load r).regs = r.regs := rfl
@[simp] theorem load_tr {r : Record} : (s.load r).tr = statusTr r.status := rfl
@[simp] theorem load_bd {r : Record} : (s.load r).bd = statusBd r.status := rfl
@[simp] theorem load_ce {r : Record} : (s.load r).ce = statusCe r.status := rfl
@[simp] theorem load_borderX {r : Record} : (s.load r).borderX = r.borderX := rfl
@[simp] theorem load_mode {r : Record} : (s.load r).mode = r.mode := rfl
@[simp] theorem load_geom {r : Record} : (s.load r).geom = r.geom := rfl
@[simp] theorem load_lastCost {r : Record} : (s.load r).lastCost = r.lastCost := rfl
@[simp] theorem load_refused {r : Record} : (s.load r).refused = s.refused := rfl
@[simp] theorem load_fault {r : Record} : (s.load r).fault = s.fault := rfl
@[simp] theorem load_vram {r : Record} : (s.load r).vram = s.vram := rfl
@[simp] theorem load_saved {r : Record} : (s.load r).saved = s.saved := rfl
@[simp] theorem load_time {r : Record} : (s.load r).time = s.time := rfl
@[simp] theorem load_blank {r : Record} : (s.load r).blank = s.blank := rfl
@[simp] theorem load_inbox {r : Record} : (s.load r).inbox = s.inbox := rfl
@[simp] theorem load_replies {r : Record} : (s.load r).replies = s.replies := rfl
@[simp] theorem load_params {r : Record} : (s.load r).params = s.params := rfl
@[simp] theorem load_draws {r : Record} : (s.load r).draws = s.draws := rfl

/-! ## resetEngine -/

@[simp] theorem resetEngine_regs : s.resetEngine.regs = Vector.replicate 15 0x00 := rfl
@[simp] theorem resetEngine_tr : s.resetEngine.tr = false := rfl
@[simp] theorem resetEngine_bd : s.resetEngine.bd = false := rfl
@[simp] theorem resetEngine_ce : s.resetEngine.ce = false := rfl
@[simp] theorem resetEngine_borderX : s.resetEngine.borderX = 0 := rfl
@[simp] theorem resetEngine_mode : s.resetEngine.mode = .other := rfl
@[simp] theorem resetEngine_geom : s.resetEngine.geom = none := rfl
@[simp] theorem resetEngine_lastCost : s.resetEngine.lastCost = 0 := rfl
@[simp] theorem resetEngine_refused : s.resetEngine.refused = s.refused := rfl
@[simp] theorem resetEngine_fault : s.resetEngine.fault = s.fault := rfl
@[simp] theorem resetEngine_vram : s.resetEngine.vram = s.vram := rfl
@[simp] theorem resetEngine_saved : s.resetEngine.saved = s.saved := rfl
@[simp] theorem resetEngine_time : s.resetEngine.time = s.time := rfl
@[simp] theorem resetEngine_blank : s.resetEngine.blank = s.blank := rfl
@[simp] theorem resetEngine_inbox : s.resetEngine.inbox = s.inbox := rfl
@[simp] theorem resetEngine_replies : s.resetEngine.replies = s.replies := rfl
@[simp] theorem resetEngine_params : s.resetEngine.params = s.params := rfl
@[simp] theorem resetEngine_draws : s.resetEngine.draws = s.draws := rfl

/-! ## environmentWrite -/

@[simp] theorem environmentWrite_regs {a : VramAddr} {v : Byte} : (s.environmentWrite a v).regs = s.regs := rfl
@[simp] theorem environmentWrite_tr {a : VramAddr} {v : Byte} : (s.environmentWrite a v).tr = s.tr := rfl
@[simp] theorem environmentWrite_bd {a : VramAddr} {v : Byte} : (s.environmentWrite a v).bd = s.bd := rfl
@[simp] theorem environmentWrite_ce {a : VramAddr} {v : Byte} : (s.environmentWrite a v).ce = s.ce := rfl
@[simp] theorem environmentWrite_borderX {a : VramAddr} {v : Byte} : (s.environmentWrite a v).borderX = s.borderX := rfl
@[simp] theorem environmentWrite_mode {a : VramAddr} {v : Byte} : (s.environmentWrite a v).mode = s.mode := rfl
@[simp] theorem environmentWrite_geom {a : VramAddr} {v : Byte} : (s.environmentWrite a v).geom = s.geom := rfl
@[simp] theorem environmentWrite_lastCost {a : VramAddr} {v : Byte} : (s.environmentWrite a v).lastCost = s.lastCost := rfl
@[simp] theorem environmentWrite_refused {a : VramAddr} {v : Byte} : (s.environmentWrite a v).refused = s.refused := rfl
@[simp] theorem environmentWrite_fault {a : VramAddr} {v : Byte} : (s.environmentWrite a v).fault = s.fault := rfl
@[simp] theorem environmentWrite_vram {a : VramAddr} {v : Byte} : (s.environmentWrite a v).vram = s.vram.write a v := rfl
@[simp] theorem environmentWrite_saved {a : VramAddr} {v : Byte} : (s.environmentWrite a v).saved = s.saved := rfl
@[simp] theorem environmentWrite_time {a : VramAddr} {v : Byte} : (s.environmentWrite a v).time = s.time := rfl
@[simp] theorem environmentWrite_blank {a : VramAddr} {v : Byte} : (s.environmentWrite a v).blank = s.blank := rfl
@[simp] theorem environmentWrite_inbox {a : VramAddr} {v : Byte} : (s.environmentWrite a v).inbox = s.inbox := rfl
@[simp] theorem environmentWrite_replies {a : VramAddr} {v : Byte} : (s.environmentWrite a v).replies = s.replies := rfl
@[simp] theorem environmentWrite_params {a : VramAddr} {v : Byte} : (s.environmentWrite a v).params = s.params := rfl
@[simp] theorem environmentWrite_draws {a : VramAddr} {v : Byte} : (s.environmentWrite a v).draws = s.draws := rfl

/-! ## takeCall -/

@[simp] theorem takeCall_regs {c : HostCall} {rest : List Input} : (s.takeCall c rest).regs = s.regs := rfl
@[simp] theorem takeCall_tr {c : HostCall} {rest : List Input} : (s.takeCall c rest).tr = s.tr := rfl
@[simp] theorem takeCall_bd {c : HostCall} {rest : List Input} : (s.takeCall c rest).bd = s.bd := rfl
@[simp] theorem takeCall_ce {c : HostCall} {rest : List Input} : (s.takeCall c rest).ce = s.ce := rfl
@[simp] theorem takeCall_borderX {c : HostCall} {rest : List Input} : (s.takeCall c rest).borderX = s.borderX := rfl
@[simp] theorem takeCall_mode {c : HostCall} {rest : List Input} : (s.takeCall c rest).mode = s.mode := rfl
@[simp] theorem takeCall_geom {c : HostCall} {rest : List Input} : (s.takeCall c rest).geom = s.geom := rfl
@[simp] theorem takeCall_lastCost {c : HostCall} {rest : List Input} : (s.takeCall c rest).lastCost = s.lastCost := rfl
@[simp] theorem takeCall_refused {c : HostCall} {rest : List Input} : (s.takeCall c rest).refused = s.refused := rfl
@[simp] theorem takeCall_fault {c : HostCall} {rest : List Input} : (s.takeCall c rest).fault = s.fault := rfl
@[simp] theorem takeCall_vram {c : HostCall} {rest : List Input} : (s.takeCall c rest).vram = s.vram := rfl
@[simp] theorem takeCall_saved {c : HostCall} {rest : List Input} : (s.takeCall c rest).saved = s.saved := rfl
@[simp] theorem takeCall_time {c : HostCall} {rest : List Input} : (s.takeCall c rest).time = c.time := rfl
@[simp] theorem takeCall_blank {c : HostCall} {rest : List Input} : (s.takeCall c rest).blank = c.blank := rfl
@[simp] theorem takeCall_inbox {c : HostCall} {rest : List Input} : (s.takeCall c rest).inbox = rest := rfl
@[simp] theorem takeCall_replies {c : HostCall} {rest : List Input} : (s.takeCall c rest).replies = s.replies := rfl
@[simp] theorem takeCall_params {c : HostCall} {rest : List Input} : (s.takeCall c rest).params = s.params := rfl
@[simp] theorem takeCall_draws {c : HostCall} {rest : List Input} : (s.takeCall c rest).draws = s.draws := rfl

/-! ## takeInput -/

@[simp] theorem takeInput_regs {rest : List Input} : (s.takeInput rest).regs = s.regs := rfl
@[simp] theorem takeInput_tr {rest : List Input} : (s.takeInput rest).tr = s.tr := rfl
@[simp] theorem takeInput_bd {rest : List Input} : (s.takeInput rest).bd = s.bd := rfl
@[simp] theorem takeInput_ce {rest : List Input} : (s.takeInput rest).ce = s.ce := rfl
@[simp] theorem takeInput_borderX {rest : List Input} : (s.takeInput rest).borderX = s.borderX := rfl
@[simp] theorem takeInput_mode {rest : List Input} : (s.takeInput rest).mode = s.mode := rfl
@[simp] theorem takeInput_geom {rest : List Input} : (s.takeInput rest).geom = s.geom := rfl
@[simp] theorem takeInput_lastCost {rest : List Input} : (s.takeInput rest).lastCost = s.lastCost := rfl
@[simp] theorem takeInput_refused {rest : List Input} : (s.takeInput rest).refused = s.refused := rfl
@[simp] theorem takeInput_fault {rest : List Input} : (s.takeInput rest).fault = s.fault := rfl
@[simp] theorem takeInput_vram {rest : List Input} : (s.takeInput rest).vram = s.vram := rfl
@[simp] theorem takeInput_saved {rest : List Input} : (s.takeInput rest).saved = s.saved := rfl
@[simp] theorem takeInput_time {rest : List Input} : (s.takeInput rest).time = s.time := rfl
@[simp] theorem takeInput_blank {rest : List Input} : (s.takeInput rest).blank = s.blank := rfl
@[simp] theorem takeInput_inbox {rest : List Input} : (s.takeInput rest).inbox = rest := rfl
@[simp] theorem takeInput_replies {rest : List Input} : (s.takeInput rest).replies = s.replies := rfl
@[simp] theorem takeInput_params {rest : List Input} : (s.takeInput rest).params = s.params := rfl
@[simp] theorem takeInput_draws {rest : List Input} : (s.takeInput rest).draws = s.draws := rfl

@[simp] theorem finish_lastCost : s.finish.lastCost = s.counter := rfl

theorem counter_of_geom {g : Geom} (h : s.geom = some g) : s.counter = g.opc := by
  simp [State.counter, h]

/-- The counter a finished operation leaves (40_dispatch.md R112). -/
theorem finish_lastCost_of_geom {g : Geom} (h : s.geom = some g) : s.finish.lastCost = g.opc := by
  simp [State.finish, State.counter, h]

theorem finish_lastCost_of_none (h : s.geom = none) : s.finish.lastCost = s.lastCost := by
  simp [State.finish, State.counter, h]

/-! ## setPixel -/

@[simp] theorem setPixel_regs {l : Layout} {x y : Int} {c : Byte} {lo : BitVec 4} :
    (s.setPixel l x y c lo).regs = s.regs := by
  simp only [State.setPixel]; split <;> [rfl; split <;> rfl]
@[simp] theorem setPixel_tr {l : Layout} {x y : Int} {c : Byte} {lo : BitVec 4} :
    (s.setPixel l x y c lo).tr = s.tr := by
  simp only [State.setPixel]; split <;> [rfl; split <;> rfl]
@[simp] theorem setPixel_bd {l : Layout} {x y : Int} {c : Byte} {lo : BitVec 4} :
    (s.setPixel l x y c lo).bd = s.bd := by
  simp only [State.setPixel]; split <;> [rfl; split <;> rfl]
@[simp] theorem setPixel_ce {l : Layout} {x y : Int} {c : Byte} {lo : BitVec 4} :
    (s.setPixel l x y c lo).ce = s.ce := by
  simp only [State.setPixel]; split <;> [rfl; split <;> rfl]
@[simp] theorem setPixel_borderX {l : Layout} {x y : Int} {c : Byte} {lo : BitVec 4} :
    (s.setPixel l x y c lo).borderX = s.borderX := by
  simp only [State.setPixel]; split <;> [rfl; split <;> rfl]
@[simp] theorem setPixel_mode {l : Layout} {x y : Int} {c : Byte} {lo : BitVec 4} :
    (s.setPixel l x y c lo).mode = s.mode := by
  simp only [State.setPixel]; split <;> [rfl; split <;> rfl]
@[simp] theorem setPixel_geom {l : Layout} {x y : Int} {c : Byte} {lo : BitVec 4} :
    (s.setPixel l x y c lo).geom = s.geom := by
  simp only [State.setPixel]; split <;> [rfl; split <;> rfl]
@[simp] theorem setPixel_lastCost {l : Layout} {x y : Int} {c : Byte} {lo : BitVec 4} :
    (s.setPixel l x y c lo).lastCost = s.lastCost := by
  simp only [State.setPixel]; split <;> [rfl; split <;> rfl]
@[simp] theorem setPixel_refused {l : Layout} {x y : Int} {c : Byte} {lo : BitVec 4} :
    (s.setPixel l x y c lo).refused = s.refused := by
  simp only [State.setPixel]; split <;> [rfl; split <;> rfl]
@[simp] theorem setPixel_fault {l : Layout} {x y : Int} {c : Byte} {lo : BitVec 4} :
    (s.setPixel l x y c lo).fault = s.fault := by
  simp only [State.setPixel]; split <;> [rfl; split <;> rfl]
@[simp] theorem setPixel_saved {l : Layout} {x y : Int} {c : Byte} {lo : BitVec 4} :
    (s.setPixel l x y c lo).saved = s.saved := by
  simp only [State.setPixel]; split <;> [rfl; split <;> rfl]
@[simp] theorem setPixel_time {l : Layout} {x y : Int} {c : Byte} {lo : BitVec 4} :
    (s.setPixel l x y c lo).time = s.time := by
  simp only [State.setPixel]; split <;> [rfl; split <;> rfl]
@[simp] theorem setPixel_blank {l : Layout} {x y : Int} {c : Byte} {lo : BitVec 4} :
    (s.setPixel l x y c lo).blank = s.blank := by
  simp only [State.setPixel]; split <;> [rfl; split <;> rfl]
@[simp] theorem setPixel_inbox {l : Layout} {x y : Int} {c : Byte} {lo : BitVec 4} :
    (s.setPixel l x y c lo).inbox = s.inbox := by
  simp only [State.setPixel]; split <;> [rfl; split <;> rfl]
@[simp] theorem setPixel_replies {l : Layout} {x y : Int} {c : Byte} {lo : BitVec 4} :
    (s.setPixel l x y c lo).replies = s.replies := by
  simp only [State.setPixel]; split <;> [rfl; split <;> rfl]
@[simp] theorem setPixel_params {l : Layout} {x y : Int} {c : Byte} {lo : BitVec 4} :
    (s.setPixel l x y c lo).params = s.params := by
  simp only [State.setPixel]; split <;> [rfl; split <;> rfl]

/-! ## Reads through an operation -/

@[simp] theorem cost_getPixel {k : CostClass} {l : Layout} {x y : Int} :
    (s.cost k).getPixel l x y = s.getPixel l x y := rfl

@[simp] theorem cost_readByteAt {k : CostClass} {l : Layout} {bx y : Int} :
    (s.cost k).readByteAt l bx y = s.readByteAt l bx y := rfl

@[simp] theorem writeReg_getPixel {i : Fin 15} {v : Byte} {l : Layout} {x y : Int} :
    (s.writeReg i v).getPixel l x y = s.getPixel l x y := rfl

end Sys2Proof.Machine
end

