-- ==== Sys2Proof/Laws/Ops.lean ====
section
/-! SUPPORT. What each shared operation can do, said once. -/

namespace Sys2Proof.Machine

/-! ## Host calls -/

/-- A host call answers a next state exactly on a state without marks, and then its effect. -/
theorem hostCall_eq_next {s t : State} {f : State → State} :
    hostCall s f = .next t ↔ (s.fault = none ∧ s.refused = none) ∧ t = f s := by
  unfold hostCall
  split <;> simp_all [eq_comm]

theorem hostCall_of_unmarked {s : State} (h : s.fault = none ∧ s.refused = none)
    (f : State → State) : hostCall s f = .next (f s) :=
  hostCall_eq_next.2 ⟨h, rfl⟩

theorem hostCall_of_fault {s : State} {r : Fault} (h : s.fault = some r) (f : State → State) :
    hostCall s f = .fault r := by
  simp [hostCall, h]

theorem hostCall_of_refused {s : State} {r : RefuseReason} (hf : s.fault = none)
    (h : s.refused = some r) (f : State → State) : hostCall s f = .refused (.stuck r) := by
  simp [hostCall, hf, h]

/-! ## Loops -/

variable {α β : Type}

@[simp] theorem forUpTo_zero (body : Nat → α → α) (a : α) : forUpTo 0 body a = a := rfl

@[simp] theorem forUpTo_succ (n : Nat) (body : Nat → α → α) (a : α) :
    forUpTo (n + 1) body a = body n (forUpTo n body a) := rfl

/-- What holds before a loop and is kept by every iteration holds after it. -/
theorem forUpTo_induct {p : Nat → α → Prop} {n : Nat} {body : Nat → α → α} {a : α} (h0 : p 0 a)
    (hs : ∀ i b, i < n → p i b → p (i + 1) (body i b)) : p n (forUpTo n body a) := by
  induction n with
  | zero => exact h0
  | succ n ih => exact hs n _ n.lt_succ_self (ih fun i b hi => hs i b (Nat.lt_succ_of_lt hi))

/-- A quantity no iteration changes is unchanged by the loop. -/
theorem forUpTo_fixed (f : α → β) {n : Nat} {body : Nat → α → α} {a : α}
    (h : ∀ i b, f (body i b) = f b) : f (forUpTo n body a) = f a := by
  induction n with
  | zero => rfl
  | succ n ih => rw [forUpTo_succ, h, ih]

/-- Two loops whose iterations keep a relation end related. -/
theorem forUpTo_related {r : α → β → Prop} {n : Nat} {f : Nat → α → α} {g : Nat → β → β} {a : α}
    {b : β} (h0 : r a b) (hs : ∀ i a b, r a b → r (f i a) (g i b)) :
    r (forUpTo n f a) (forUpTo n g b) := by
  induction n with
  | zero => exact h0
  | succ n ih => exact hs n _ _ ih

theorem forUpTo_eq_foldl (n : Nat) (body : Nat → α → α) (a : α) :
    forUpTo n body a = (List.range n).foldl (fun a i => body i a) a := by
  induction n with
  | zero => rfl
  | succ n ih => simp [List.range_succ, ih]

/-! ## The pixel accessor -/

/-- SetPixel keeps video memory canonical. -/
theorem setPixel_wf {s : State} (h : Memory.wf s.vram) (l : Layout) (x y : Int) (c : Byte)
    (lo : BitVec 4) : Memory.wf (s.setPixel l x y c lo).vram := by
  unfold State.setPixel
  dsimp only
  split
  · exact h
  · split <;> exact Memory.write_wf h _ _

theorem writeByteAt_wf {s : State} (h : Memory.wf s.vram) (l : Layout) (bx y : Int) (v : Byte) :
    Memory.wf (s.writeByteAt l bx y v).vram :=
  Memory.write_wf h _ _

/-- SetPixel touches no byte but the one at its address (20_memory.md R59, R67). -/
theorem setPixel_read_of_ne {s : State} (h : Memory.wf s.vram) {l : Layout} {x y : Int} {c : Byte}
    {lo : BitVec 4} {a : VramAddr} (ha : l.address s.params.planarG6G7 x y ≠ a) :
    (s.setPixel l x y c lo).vram.read a = s.vram.read a := by
  unfold State.setPixel
  dsimp only
  split
  · rfl
  · split <;> simp [Memory.read_write h, ha.symm]

theorem writeByteAt_read {s : State} (h : Memory.wf s.vram) {l : Layout} {bx y : Int} {v : Byte}
    {a : VramAddr} :
    (s.writeByteAt l bx y v).vram.read a =
      if a = l.byteAddress s.params.planarG6G7 bx y then v else s.vram.read a :=
  Memory.read_write h _ _ _

/-! ## Starts -/

/-- A start with a NOOP code (40_dispatch.md R107, R108). -/
theorem start_noop {s : State} {op : Opcode} {lo : BitVec 4} {handler : Geom → State → State}
    (h : op.isNoop = true) :
    s.start op lo handler = { s with
      regs := s.regs.set 14 (commandByte op lo)
      ce := false
      tr := if s.ce then false else s.tr
      geom := if s.ce then none else s.geom
      lastCost := 0 } := by
  cases hc : s.ce <;> simp [State.start, h, State.noopStart, State.writeReg, State.finish, hc]

/-- What a start does to the state before its handler runs: the command byte is stored and an active
operation ended (40_dispatch.md R104). -/
def State.ended (s : State) (op : Opcode) (lo : BitVec 4) : State :=
  { s with
    regs := s.regs.set 14 (commandByte op lo)
    ce := false
    tr := if s.ce then false else s.tr
    geom := if s.ce then none else s.geom
    lastCost := if s.ce then s.counter else s.lastCost }

theorem start_restart_refused {s : State} {op : Opcode} {lo : BitVec 4}
    {handler : Geom → State → State} (h : op.isNoop = false) (hc : s.ce = true)
    (hp : s.params.restartPolicy = .refuse) :
    s.start op lo handler = (s.writeReg 14 (commandByte op lo)).refuse .restartWhileActive := by
  simp [State.start, h, hc, hp]

/-- A start of a non-NOOP opcode that RESTART_POLICY lets through. -/
theorem start_begins {s : State} {op : Opcode} {lo : BitVec 4} {handler : Geom → State → State}
    (h : op.isNoop = false) (hp : s.ce = false ∨ s.params.restartPolicy = .abort) :
    s.start op lo handler = (s.ended op lo).beginOperation op lo handler := by
  cases hc : s.ce <;>
    simp_all [State.start, State.ended, State.writeReg, State.finish, State.counter]

/-- The snapshot does not read register 14. -/
@[simp] theorem snapshot_set_command (op : Opcode) (lo : BitVec 4) (l : Layout) (r : Regs) (v : Byte) :
    snapshot op lo l (r.set 14 v) = snapshot op lo l r := by
  simp [snapshot, Regs.sx, Regs.sy, Regs.dx, Regs.dy, Regs.nx, Regs.ny, Regs.cl, Regs.dix, Regs.diy]

/-- The state in which a handler runs. -/
def State.running (s : State) (op : Opcode) (lo : BitVec 4) (l : Layout) : State :=
  { s.ended op lo with tr := false, geom := some (snapshot op lo l s.regs), ce := true }

/-- A start in a bitmap layout, not degenerate, runs its handler (40_dispatch.md R104). -/
theorem start_runs {s : State} {op : Opcode} {lo : BitVec 4} {l : Layout}
    {handler : Geom → State → State} (h : op.isNoop = false)
    (hp : s.ce = false ∨ s.params.restartPolicy = .abort) (hm : s.mode = .layout l)
    (hd : op.isRectangle = true → s.regs.nx ≠ 0 ∧ s.regs.ny ≠ 0) :
    s.start op lo handler = handler (snapshot op lo l s.regs) (s.running op lo l) := by
  rw [start_begins h hp]
  have hm' : (s.ended op lo).mode = .layout l := hm
  have hs : snapshot op lo l (s.ended op lo).regs = snapshot op lo l s.regs := snapshot_set_command ..
  simp only [State.beginOperation, hm', hs]
  rw [if_neg]
  · rw [← hm]; rfl
  · rintro ⟨hr, hz⟩
    obtain ⟨h1, h2⟩ := hd hr
    rcases hz with hz | hz
    · exact h1 (BitVec.eq_of_toNat_eq hz)
    · exact h2 (BitVec.eq_of_toNat_eq hz)

/-- A degenerate start of a rectangle opcode completes at once (40_dispatch.md R124). -/
theorem start_degenerate {s : State} {op : Opcode} {lo : BitVec 4} {l : Layout}
    {handler : Geom → State → State} (h : op.isRectangle = true)
    (hp : s.ce = false ∨ s.params.restartPolicy = .abort) (hm : s.mode = .layout l)
    (hd : s.regs.nx = 0 ∨ s.regs.ny = 0) :
    s.start op lo handler = (s.running op lo l).finish := by
  have hn : op.isNoop = false := by cases op <;> simp_all [Opcode.isNoop, Opcode.isRectangle]
  rw [start_begins hn hp]
  have hm' : (s.ended op lo).mode = .layout l := hm
  have hs : snapshot op lo l (s.ended op lo).regs = snapshot op lo l s.regs := snapshot_set_command ..
  simp only [State.beginOperation, hm', hs]
  rw [if_pos]
  · rw [← hm]; rfl
  · refine ⟨h, ?_⟩
    rcases hd with hd | hd
    · exact .inl (by simp [snapshot, hd])
    · exact .inr (by simp [snapshot, hd])

theorem start_in_other {s : State} {op : Opcode} {lo : BitVec 4} {handler : Geom → State → State}
    (h : op.isNoop = false) (hp : s.ce = false ∨ s.params.restartPolicy = .abort)
    (hm : s.mode = .other) :
    s.start op lo handler = (s.ended op lo).refuse .noBitmapLayout := by
  rw [start_begins h hp]
  have hm' : (s.ended op lo).mode = .other := hm
  simp only [State.beginOperation, hm']

/-- Every start of a non-NOOP opcode does one of four things (60_exceptions.md R208). -/
theorem start_cases {s : State} {op : Opcode} {lo : BitVec 4} {handler : Geom → State → State}
    (h : op.isNoop = false) :
    s.start op lo handler = (s.writeReg 14 (commandByte op lo)).refuse .restartWhileActive ∨
    s.start op lo handler = (s.ended op lo).refuse .noBitmapLayout ∨
    ∃ l, s.mode = .layout l ∧
      (s.start op lo handler = (s.running op lo l).finish ∨
       (op.isRectangle = true → s.regs.nx ≠ 0 ∧ s.regs.ny ≠ 0) ∧
       s.start op lo handler = handler (snapshot op lo l s.regs) (s.running op lo l)) := by
  by_cases hp : s.ce = false ∨ s.params.restartPolicy = .abort
  · cases hm : s.mode with
    | other => exact .inr (.inl (start_in_other h hp hm))
    | layout l =>
      refine .inr (.inr ⟨l, rfl, ?_⟩)
      by_cases hd : op.isRectangle = true ∧ (s.regs.nx = 0 ∨ s.regs.ny = 0)
      · exact .inl (start_degenerate hd.1 hp hm hd.2)
      · exact .inr ⟨by tauto, start_runs h hp hm (by tauto)⟩
  · refine .inl (start_restart_refused h ?_ ?_)
    · cases hc : s.ce <;> simp_all
    · cases hr : s.params.restartPolicy <;> simp_all

end Sys2Proof.Machine
end

