-- ==== Sys2Proof/Laws/Words.lean ====
section
/-! SUPPORT. The fields of a host-call word and of a command byte. -/

namespace Sys2Proof

/-- Appending a field below is a multiplication and an addition. -/
theorem toNat_append_eq {m n : Nat} (x : BitVec m) (y : BitVec n) :
    (x ++ y).toNat = x.toNat * 2 ^ n + y.toNat := by
  rw [BitVec.toNat_append, ← Nat.shiftLeft_add_eq_or_of_lt y.isLt, Nat.shiftLeft_eq]

theorem hostWord_toNat (kind idx : BitVec 4) (value : Byte) :
    (hostWord kind idx value).toNat = kind.toNat * 4096 + idx.toNat * 256 + value.toNat := by
  show ((kind ++ idx) ++ value).toNat = _
  rw [toNat_append_eq, toNat_append_eq]
  omega

@[simp] theorem hostWord_kind (kind idx : BitVec 4) (value : Byte) :
    (hostWord kind idx value).extractLsb' 12 4 = kind := by
  apply BitVec.eq_of_toNat_eq
  rw [BitVec.extractLsb'_toNat, hostWord_toNat, Nat.shiftRight_eq_div_pow]
  have := kind.isLt; have := idx.isLt; have := value.isLt
  omega

@[simp] theorem hostWord_idx (kind idx : BitVec 4) (value : Byte) :
    (hostWord kind idx value).extractLsb' 8 4 = idx := by
  apply BitVec.eq_of_toNat_eq
  rw [BitVec.extractLsb'_toNat, hostWord_toNat, Nat.shiftRight_eq_div_pow]
  have := kind.isLt; have := idx.isLt; have := value.isLt
  omega

@[simp] theorem hostWord_value (kind idx : BitVec 4) (value : Byte) :
    (hostWord kind idx value).extractLsb' 0 8 = value := by
  apply BitVec.eq_of_toNat_eq
  rw [BitVec.extractLsb'_toNat, hostWord_toNat, Nat.shiftRight_eq_div_pow]
  have := kind.isLt; have := idx.isLt; have := value.isLt
  omega

theorem commandByte_toNat (op : Opcode) (lo : BitVec 4) :
    (commandByte op lo).toNat = op.code.toNat * 16 + lo.toNat :=
  toNat_append_eq op.code lo

@[simp] theorem commandByte_cm (op : Opcode) (lo : BitVec 4) :
    (commandByte op lo).extractLsb' 4 4 = op.code := by
  apply BitVec.eq_of_toNat_eq
  rw [BitVec.extractLsb'_toNat, commandByte_toNat, Nat.shiftRight_eq_div_pow]
  have := op.code.isLt; have := lo.isLt
  omega

@[simp] theorem commandByte_lo (op : Opcode) (lo : BitVec 4) :
    (commandByte op lo).extractLsb' 0 4 = lo := by
  apply BitVec.eq_of_toNat_eq
  rw [BitVec.extractLsb'_toNat, commandByte_toNat, Nat.shiftRight_eq_div_pow]
  have := op.code.isLt; have := lo.isLt
  omega

/-- What the decoder reads from a word given by its fields. -/
theorem decode_hostWord (kind idx : BitVec 4) (value : Byte) :
    decode (hostWord kind idx value) = decodeFields kind idx value := by
  simp only [decode, hostWord_kind, hostWord_idx, hostWord_value]

/-- Every word is the word of its three fields. -/
theorem hostWord_of_fields (w : HostWord) :
    hostWord (w.extractLsb' 12 4) (w.extractLsb' 8 4) (w.extractLsb' 0 8) = w := by
  apply BitVec.eq_of_toNat_eq
  rw [hostWord_toNat, BitVec.extractLsb'_toNat, BitVec.extractLsb'_toNat, BitVec.extractLsb'_toNat]
  simp only [Nat.shiftRight_eq_div_pow]
  have := w.isLt
  omega

end Sys2Proof
end

