-- ==== Sys2Proof/Laws/Exec.lean ====
section
/-! SUPPORT. The dispatch, said once: every host call is `hostCall` of its effect. -/

namespace Sys2Proof.Machine

/-- What a host call does to a state without marks; the reserved words do nothing. -/
def effect : Instr → State → State
  | .wrSxl v => fun s => s.writeReg 0 v
  | .wrSxh v => fun s => s.writeReg 1 v
  | .wrSyl v => fun s => s.writeReg 2 v
  | .wrSyh v => fun s => s.writeReg 3 v
  | .wrDxl v => fun s => s.writeReg 4 v
  | .wrDxh v => fun s => s.writeReg 5 v
  | .wrDyl v => fun s => s.writeReg 6 v
  | .wrDyh v => fun s => s.writeReg 7 v
  | .wrNxl v => fun s => s.writeReg 8 v
  | .wrNxh v => fun s => s.writeReg 9 v
  | .wrNyl v => fun s => s.writeReg 10 v
  | .wrNyh v => fun s => s.writeReg 11 v
  | .wrClr v => fun s => pixelWrite v (s.writeReg 12 v)
  | .wrArg v => fun s => s.writeReg 13 v
  | .cmdStop lo => fun s => s.start .stop lo (noHandler)
  | .cmdUnknown1 lo => fun s => s.start .unknown1 lo (noHandler)
  | .cmdUnknown2 lo => fun s => s.start .unknown2 lo (noHandler)
  | .cmdUnknown3 lo => fun s => s.start .unknown3 lo (noHandler)
  | .cmdUnknown4 lo => fun s => s.start .unknown4 lo (noHandler)
  | .cmdUnknown5 lo => fun s => s.start .unknown5 lo (noHandler)
  | .cmdSrch lo => fun s => s.start .srch lo (search)
  | .cmdLine lo => fun s => s.start .line lo (line)
  | .cmdLmmv lo => fun s => s.start .lmmv lo (logicalFill)
  | .cmdLmmm lo => fun s => s.start .lmmm lo (logicalCopy)
  | .cmdLmcm lo => fun s => s.start .lmcm lo (fun _ s => s.readyForTransfer)
  | .cmdLmmc lo => fun s => s.start .lmmc lo (fun _ s => s.readyForTransfer)
  | .cmdHmmv lo => fun s => s.start .hmmv lo (byteFill)
  | .cmdHmmm lo => fun s => s.start .hmmm lo (byteCopy)
  | .cmdYmmm lo => fun s => s.start .ymmm lo (columnCopy)
  | .cmdHmmc lo => fun s => s.start .hmmc lo (hmmcStart)
  | .wr15 _ => fun s => s.raiseFault (.registerIndexOutOfRange 15)
  | .rs => fun s => s.reply s.status
  | .rp => readPixel
  | .mode m => fun s => { s with mode := modeOfByte m }
  | .vnote => fun s => s
  | .save => fun s => { s with saved := some s.record }
  | .restore => restoreSaved
  | .reservedKind7 => fun s => s
  | .reservedKinds8F => fun s => s

/-- An instruction that names a host call is executed as `hostCall` of its effect. -/
theorem exec_eq_hostCall {i : Instr} (h : i.wellFormed = true) (s : State) :
    exec i s = hostCall s (effect i) := by
  cases i <;> first | rfl | cases h

theorem exec_of_unmarked {i : Instr} (h : i.wellFormed = true) {s : State}
    (hs : s.fault = none ∧ s.refused = none) : exec i s = .next (effect i s) := by
  rw [exec_eq_hostCall h, hostCall_of_unmarked hs]

/-- The words that name no host call are refused. -/
theorem exec_of_not_wellFormed {i : Instr} (h : i.wellFormed = false) (s : State) :
    exec i s = .refused .reservedKind := by
  cases i <;> first | rfl | cases h

/-- A next state comes from a host call on a state without marks, and is its effect. -/
theorem exec_eq_next {i : Instr} {s t : State} :
    exec i s = .next t ↔
      i.wellFormed = true ∧ (s.fault = none ∧ s.refused = none) ∧ t = effect i s := by
  cases h : i.wellFormed with
  | true => rw [exec_eq_hostCall h, hostCall_eq_next]; simp
  | false => rw [exec_of_not_wellFormed h]; simp

/-! ## The step -/

theorem step_nil {s : State} (h : s.inbox = []) : step s = .next s := by
  simp [step, h]

theorem step_call {s : State} {c : HostCall} {rest : List Input} (h : s.inbox = .call c :: rest) :
    step s = exec (decode c.word) (s.takeCall c rest) := by
  simp [step, h]

theorem step_vramWrite {s : State} {a : VramAddr} {v : Byte} {rest : List Input}
    (h : s.inbox = .vramWrite a v :: rest) :
    step s = .next ((s.takeInput rest).environmentWrite a v) := by
  simp [step, h]

theorem step_reset {s : State} {rest : List Input} (h : s.inbox = .reset :: rest) :
    step s = .next (s.takeInput rest).resetEngine := by
  simp [step, h]

/-- Everything a step can do. -/
theorem step_cases {s t : State} (h : step s = .next t) :
    (s.inbox = [] ∧ t = s) ∨
    (∃ c rest, s.inbox = .call c :: rest ∧ exec (decode c.word) (s.takeCall c rest) = .next t) ∨
    (∃ a v rest, s.inbox = .vramWrite a v :: rest ∧ t = (s.takeInput rest).environmentWrite a v) ∨
    (∃ rest, s.inbox = .reset :: rest ∧ t = (s.takeInput rest).resetEngine) := by
  rcases hi : s.inbox with _ | ⟨_ | _ | _, rest⟩
  · rw [step_nil hi] at h; cases h; exact .inl ⟨rfl, rfl⟩
  · rw [step_call hi] at h; exact .inr (.inl ⟨_, _, rfl, h⟩)
  · rw [step_vramWrite hi] at h; cases h; exact .inr (.inr (.inl ⟨_, _, _, rfl, rfl⟩))
  · rw [step_reset hi] at h; cases h; exact .inr (.inr (.inr ⟨_, rfl, rfl⟩))

end Sys2Proof.Machine
end

