-- ==== Sys2Proof/Laws/Handlers.lean ====
section
/-! SUPPORT. What drawing, advancing a transfer and the handlers of the INSTANT opcodes can do. -/

namespace Sys2Proof.Machine

/-! ## Drawing: VRAM, the draws and the cost counter -/

/-- `t` is `s` with another VRAM, another number of draws and `n` costs of class `k` charged. -/
def Drawn (k : CostClass) (s : State) (n : Nat) (t : State) : Prop :=
  t = { s with
    vram := t.vram
    draws := t.draws
    geom := s.geom.map fun g => { g with opc := g.opc + n * Config.costTable k g.gl s.blank } }

theorem Drawn.refl (k : CostClass) (s : State) : Drawn k s 0 s := by
  have : (s.geom.map fun g => { g with opc := g.opc + 0 * Config.costTable k g.gl s.blank }) = s.geom := by
    cases s.geom <;> simp
  unfold Drawn
  rw [this]

theorem setPixel_eq (s : State) (l : Layout) (x y : Int) (c : Byte) (lo : BitVec 4) :
    s.setPixel l x y c lo = { s with
      vram := (s.setPixel l x y c lo).vram
      draws := (s.setPixel l x y c lo).draws } := by
  unfold State.setPixel
  dsimp only
  split
  · rfl
  · split <;> rfl

theorem Drawn.setPixel {k : CostClass} {s t : State} {n : Nat} (h : Drawn k s n t) (l : Layout)
    (x y : Int) (c : Byte) (lo : BitVec 4) : Drawn k s n (t.setPixel l x y c lo) := by
  unfold Drawn at *
  rw [setPixel_eq, h]

theorem Drawn.writeByteAt {k : CostClass} {s t : State} {n : Nat} (h : Drawn k s n t) (l : Layout)
    (bx y : Int) (v : Byte) : Drawn k s n (t.writeByteAt l bx y v) := by
  unfold Drawn at *
  rw [h]; rfl

theorem Drawn.cost {k : CostClass} {s t : State} {n : Nat} (h : Drawn k s n t) :
    Drawn k s (n + 1) (t.cost k) := by
  unfold Drawn at *
  rw [h]
  cases s.geom <;> simp [State.cost, Nat.succ_mul, Nat.add_assoc]

/-- What `Finish()` leaves after drawing. -/
theorem Drawn.finish {k : CostClass} {s t : State} {n : Nat} (h : Drawn k s n t) :
    t.finish = { s with
      vram := t.vram
      draws := t.draws
      lastCost := match s.geom with
        | some g => g.opc + n * Config.costTable k g.gl s.blank
        | none => s.lastCost
      geom := none
      ce := false
      tr := false } := by
  unfold Drawn at h
  rw [h]
  cases hg : s.geom <;> simp [State.finish, State.counter]

/-- A loop whose body charges `c` costs and draws charges `n * c` in all. -/
theorem Drawn.loop {k : CostClass} {s t : State} {m n c : Nat} {body : Nat → State → State}
    (h : Drawn k s m t)
    (hb : ∀ i m t, Drawn k s m t → Drawn k s (m + c) (body i t)) :
    Drawn k s (m + n * c) (forUpTo n body t) := by
  induction n with
  | zero => simpa using h
  | succ n ih =>
    have := hb n _ _ ih
    rwa [show m + (n + 1) * c = m + n * c + c by rw [Nat.succ_mul, Nat.add_assoc]]

/-- Two states agree in what the pixel accessor reads. -/
structure SameVideo (s t : State) : Prop where
  vram : s.vram = t.vram
  draws : s.draws = t.draws
  params : s.params = t.params

theorem SameVideo.refl (s : State) : SameVideo s s := ⟨rfl, rfl, rfl⟩

theorem SameVideo.cost {s t : State} (h : SameVideo s t) (k : CostClass) : SameVideo (s.cost k) t :=
  ⟨h.vram, h.draws, h.params⟩

theorem SameVideo.getPixel {s t : State} (h : SameVideo s t) (l : Layout) (x y : Int) :
    s.getPixel l x y = t.getPixel l x y := by
  simp only [State.getPixel, h.vram, h.params]

theorem SameVideo.readByteAt {s t : State} (h : SameVideo s t) (l : Layout) (x y : Int) :
    s.readByteAt l x y = t.readByteAt l x y := by
  simp only [State.readByteAt, h.vram, h.params]

theorem SameVideo.setPixel {s t : State} (h : SameVideo s t) (l : Layout) (x y : Int) (c : Byte)
    (lo : BitVec 4) : SameVideo (s.setPixel l x y c lo) (t.setPixel l x y c lo) := by
  unfold State.setPixel
  simp only [h.vram, h.params, h.draws]
  split
  · exact h
  · split <;> exact ⟨rfl, rfl, rfl⟩

theorem SameVideo.writeByteAt {s t : State} (h : SameVideo s t) (l : Layout) (bx y : Int) (v : Byte) :
    SameVideo (s.writeByteAt l bx y v) (t.writeByteAt l bx y v) :=
  ⟨by simp only [State.writeByteAt, h.vram, h.params], h.draws, h.params⟩

/-! ## The handlers of the INSTANT opcodes draw, then finish -/

theorem drawn_lineFrom {s t : State} {m : Nat} (g : Geom) (maj : Bool) (n : Nat) (p : LinePos)
    (h : Drawn .line s m t) : Drawn .line s (m + (n + 1)) (lineFrom g maj n p t) := by
  induction n generalizing p t m with
  | zero => exact h.cost.setPixel ..
  | succ n ih =>
    have := ih (p.next g maj) (h.cost.setPixel g.gl p.x p.y g.cl g.lo)
    rwa [show m + (n + 1 + 1) = m + 1 + (n + 1) by omega]

/-- `Lmmv()` but for its `Finish()`. -/
theorem drawn_logicalFill (g : Geom) (s : State) : Drawn .lmmv s (g.ny.val * (g.nx.val * 1))
    (forUpTo g.ny.val (fun j => forUpTo g.nx.val (fun i s =>
      (s.cost .lmmv).setPixel g.gl (stepped g.dx i g.tx) (stepped g.dy j g.ty) g.cl g.lo)) s) := by
  rw [← Nat.zero_add (g.ny.val * _)]
  exact (Drawn.refl _ s).loop fun j m t h => h.loop fun i m t h => h.cost.setPixel ..

/-- `Lmmm()` but for its `Finish()`. -/
theorem drawn_logicalCopy (g : Geom) (s : State) : Drawn .lmmm s (g.ny.val * (g.nx.val * 1))
    (forUpTo g.ny.val (fun j => forUpTo g.nx.val (fun i s =>
      (s.cost .lmmm).setPixel g.gl (stepped g.dx i g.tx) (stepped g.dy j g.ty)
        ((s.cost .lmmm).getPixel g.gl (stepped g.sx i g.tx) (stepped g.sy j g.ty)) g.lo)) s) := by
  rw [← Nat.zero_add (g.ny.val * _)]
  exact (Drawn.refl _ s).loop fun j m t h => h.loop fun i m t h => h.cost.setPixel ..

/-- `Hmmv()` but for its `Finish()`, a zero width included. -/
theorem drawn_byteFill (g : Geom) (s : State) :
    Drawn .hmmv s (g.ny.val * ((g.gl.byteCount g.nx).val * 1))
    (forUpTo g.ny.val (fun j => forUpTo (g.gl.byteCount g.nx).val (fun i s =>
      (s.cost .hmmv).writeByteAt g.gl (stepped (g.gl.toByteColumn g.dx) i g.tx)
        (stepped g.dy j g.ty) g.cl)) s) := by
  rw [← Nat.zero_add (g.ny.val * _)]
  exact (Drawn.refl _ s).loop fun j m t h => h.loop fun i m t h => h.cost.writeByteAt ..

/-- `Hmmm()` but for its `Finish()`, a zero width included. -/
theorem drawn_byteCopy (g : Geom) (s : State) :
    Drawn .hmmm s (g.ny.val * ((g.gl.byteCount g.nx).val * 1))
    (forUpTo g.ny.val (fun j => forUpTo (g.gl.byteCount g.nx).val (fun i s =>
      (s.cost .hmmm).writeByteAt g.gl (stepped (g.gl.toByteColumn g.dx) i g.tx)
        (stepped g.dy j g.ty)
        ((s.cost .hmmm).readByteAt g.gl (stepped (g.gl.toByteColumn g.sx) i g.tx)
          (stepped g.sy j g.ty)))) s) := by
  rw [← Nat.zero_add (g.ny.val * _)]
  exact (Drawn.refl _ s).loop fun j m t h => h.loop fun i m t h => h.cost.writeByteAt ..

/-- `Ymmm()` but for its `Finish()`. -/
theorem drawn_columnCopy (g : Geom) (s : State) :
    Drawn .ymmm s (g.ny.val * (columnCount g * 1))
    (forUpTo g.ny.val (fun j => forUpTo (columnCount g) (fun k s =>
      (s.cost .ymmm).writeByteAt g.gl (stepped (columnStart g) k g.tx) (stepped g.dy j g.ty)
        ((s.cost .ymmm).readByteAt g.gl (stepped (columnStart g) k g.tx) (stepped g.sy j g.ty)))) s) := by
  rw [← Nat.zero_add (g.ny.val * _)]
  exact (Drawn.refl _ s).loop fun j m t h => h.loop fun i m t h => h.cost.writeByteAt ..

/-- A handler that draws and finishes: some number of costs, VRAM and draws, nothing else. -/
theorem line_eq (g : Geom) (s : State) :
    ∃ t, Drawn .line s (g.nx.val + 1) t ∧ line g s = t.finish :=
  ⟨_, by simpa using drawn_lineFrom g s.regs.maj g.nx.val (lineStart g) (Drawn.refl _ s), rfl⟩

theorem logicalFill_eq (g : Geom) (s : State) :
    ∃ t, Drawn .lmmv s (g.ny.val * (g.nx.val * 1)) t ∧ logicalFill g s = t.finish :=
  ⟨_, drawn_logicalFill g s, rfl⟩

theorem logicalCopy_eq (g : Geom) (s : State) :
    ∃ t, Drawn .lmmm s (g.ny.val * (g.nx.val * 1)) t ∧ logicalCopy g s = t.finish :=
  ⟨_, drawn_logicalCopy g s, rfl⟩

theorem forUpTo_id {α : Type} (n : Nat) (a : α) : forUpTo n (fun _ a => a) a = a :=
  forUpTo_fixed id fun _ _ => rfl

/-- `Hmmv()` is its loop and `Finish()` for a zero width too (44_high_speed_moves.md R181). -/
theorem byteFill_eq (g : Geom) (s : State) :
    ∃ t, Drawn .hmmv s (g.ny.val * ((g.gl.byteCount g.nx).val * 1)) t ∧ byteFill g s = t.finish := by
  refine ⟨_, drawn_byteFill g s, ?_⟩
  unfold byteFill
  dsimp only
  split
  · rename_i h
    simp only [h]
    exact congrArg State.finish (forUpTo_id g.ny.val s).symm
  · rfl

theorem byteCopy_eq (g : Geom) (s : State) :
    ∃ t, Drawn .hmmm s (g.ny.val * ((g.gl.byteCount g.nx).val * 1)) t ∧ byteCopy g s = t.finish := by
  refine ⟨_, drawn_byteCopy g s, ?_⟩
  unfold byteCopy
  dsimp only
  split
  · rename_i h
    simp only [h]
    exact congrArg State.finish (forUpTo_id g.ny.val s).symm
  · rfl

theorem columnCopy_eq (g : Geom) (s : State) :
    ∃ t, Drawn .ymmm s (g.ny.val * (columnCount g * 1)) t ∧ columnCopy g s = t.finish :=
  ⟨_, drawn_columnCopy g s, rfl⟩

/-! ## SRCH -/

/-- `Srch()` charges some costs, records BD and border X, and finishes; it reads VRAM only. -/
theorem searchFrom_eq (g : Geom) (eq : Bool) (n : Nat) (x : Int) {s t : State} {m : Nat}
    (h : Drawn .srch s m t) (hv : t.vram = s.vram ∧ t.draws = s.draws) :
    ∃ (u : State) (m' : Nat) (b : Bool) (z : Int), Drawn .srch s m' u ∧
      (u.vram = s.vram ∧ u.draws = s.draws) ∧
      searchFrom g eq n x t = State.finish { u with bd := b, borderX := z } := by
  induction n generalizing x t m with
  | zero => exact ⟨t, m, false, _, h, hv, rfl⟩
  | succ n ih =>
    simp only [searchFrom]
    split
    · split
      · exact ⟨_, _, true, x, h.cost, hv, rfl⟩
      · exact ih _ h.cost hv
    · exact ⟨t, m, false, _, h, hv, rfl⟩

/-! ## Everything an INSTANT handler can do -/

/-- The state a handler leaves that wrote VRAM `v`, drew up to `d`, recorded BD and border X and cost
`c`. -/
def State.completed (s : State) (v : Memory) (d : Nat) (bd : Bool) (borderX : Int) (c : Nat) : State :=
  { s with
    vram := v
    draws := d
    bd := bd
    borderX := borderX
    lastCost := c
    geom := none
    ce := false
    tr := false }

theorem Drawn.completed {k : CostClass} {s t : State} {n : Nat} (h : Drawn k s n t) :
    ∃ c, t.finish = s.completed t.vram t.draws s.bd s.borderX c :=
  ⟨_, h.finish⟩

theorem search_completed (g : Geom) (s : State) :
    ∃ b x c, search g s = s.completed s.vram s.draws b x c := by
  obtain ⟨u, m, b, x, h, ⟨hv, hd⟩, he⟩ :=
    searchFrom_eq g s.regs.eq g.mx.toNat (g.sx % g.mx.toNat) (Drawn.refl .srch s) ⟨rfl, rfl⟩
  unfold Drawn at h
  rw [hv, hd] at h
  refine ⟨b, x, u.counter, he.trans ?_⟩
  conv_lhs => rw [h]
  conv_rhs => rw [h]
  rfl

theorem line_completed (g : Geom) (s : State) :
    ∃ v d c, line g s = s.completed v d s.bd s.borderX c := by
  obtain ⟨t, h, he⟩ := line_eq g s
  obtain ⟨c, hc⟩ := h.completed
  exact ⟨_, _, c, he.trans hc⟩

theorem logicalFill_completed (g : Geom) (s : State) :
    ∃ v d c, logicalFill g s = s.completed v d s.bd s.borderX c := by
  obtain ⟨t, h, he⟩ := logicalFill_eq g s
  obtain ⟨c, hc⟩ := h.completed
  exact ⟨_, _, c, he.trans hc⟩

theorem logicalCopy_completed (g : Geom) (s : State) :
    ∃ v d c, logicalCopy g s = s.completed v d s.bd s.borderX c := by
  obtain ⟨t, h, he⟩ := logicalCopy_eq g s
  obtain ⟨c, hc⟩ := h.completed
  exact ⟨_, _, c, he.trans hc⟩

theorem byteFill_completed (g : Geom) (s : State) :
    ∃ v d c, byteFill g s = s.completed v d s.bd s.borderX c := by
  obtain ⟨t, h, he⟩ := byteFill_eq g s
  obtain ⟨c, hc⟩ := h.completed
  exact ⟨_, _, c, he.trans hc⟩

theorem byteCopy_completed (g : Geom) (s : State) :
    ∃ v d c, byteCopy g s = s.completed v d s.bd s.borderX c := by
  obtain ⟨t, h, he⟩ := byteCopy_eq g s
  obtain ⟨c, hc⟩ := h.completed
  exact ⟨_, _, c, he.trans hc⟩

theorem columnCopy_completed (g : Geom) (s : State) :
    ∃ v d c, columnCopy g s = s.completed v d s.bd s.borderX c := by
  obtain ⟨t, h, he⟩ := columnCopy_eq g s
  obtain ⟨c, hc⟩ := h.completed
  exact ⟨_, _, c, he.trans hc⟩

/-! ## Video memory stays canonical -/

theorem forUpTo_wf {n : Nat} {body : Nat → State → State} {s : State} (h : Memory.wf s.vram)
    (hb : ∀ i t, Memory.wf t.vram → Memory.wf (body i t).vram) : Memory.wf (forUpTo n body s).vram :=
  forUpTo_induct (p := fun _ t => Memory.wf t.vram) h fun i t _ => hb i t

theorem lineFrom_wf {s : State} (h : Memory.wf s.vram) (g : Geom) (maj : Bool) (n : Nat) (p : LinePos) :
    Memory.wf (lineFrom g maj n p s).vram := by
  induction n generalizing p s with
  | zero => exact setPixel_wf (s := s.cost .line) h ..
  | succ n ih => exact ih (setPixel_wf (s := s.cost .line) h ..) _

theorem line_wf {s : State} (h : Memory.wf s.vram) (g : Geom) : Memory.wf (line g s).vram :=
  lineFrom_wf h ..

theorem logicalFill_wf {s : State} (h : Memory.wf s.vram) (g : Geom) :
    Memory.wf (logicalFill g s).vram :=
  forUpTo_wf h fun _ _ h => forUpTo_wf h fun _ t h => setPixel_wf (s := t.cost .lmmv) h ..

theorem logicalCopy_wf {s : State} (h : Memory.wf s.vram) (g : Geom) :
    Memory.wf (logicalCopy g s).vram :=
  forUpTo_wf h fun _ _ h => forUpTo_wf h fun _ t h => setPixel_wf (s := t.cost .lmmm) h ..

theorem byteFill_wf {s : State} (h : Memory.wf s.vram) (g : Geom) : Memory.wf (byteFill g s).vram := by
  unfold byteFill
  dsimp only
  split
  · exact h
  · exact forUpTo_wf h fun _ _ h => forUpTo_wf h fun _ t h => writeByteAt_wf (s := t.cost .hmmv) h ..

theorem byteCopy_wf {s : State} (h : Memory.wf s.vram) (g : Geom) : Memory.wf (byteCopy g s).vram := by
  unfold byteCopy
  dsimp only
  split
  · exact h
  · exact forUpTo_wf h fun _ _ h => forUpTo_wf h fun _ t h => writeByteAt_wf (s := t.cost .hmmm) h ..

theorem columnCopy_wf {s : State} (h : Memory.wf s.vram) (g : Geom) :
    Memory.wf (columnCopy g s).vram :=
  forUpTo_wf h fun _ _ h => forUpTo_wf h fun _ t h => writeByteAt_wf (s := t.cost .ymmm) h ..

/-! ## Transfer steps -/

@[simp] theorem countDown_val {n : Nat} (k : Fin n) : (countDown k).val = k.val - 1 := rfl

theorem endsRow_iff (g : Geom) : g.endsRow = true ↔ g.anx.val ≤ 1 := by
  rw [Geom.endsRow, decide_eq_true_iff, countDown_val]
  omega

theorem endsOperation_iff (g : Geom) : g.endsOperation = true ↔ g.anx.val ≤ 1 ∧ g.ny.val ≤ 1 := by
  rw [Geom.endsOperation, Bool.and_eq_true, endsRow_iff, decide_eq_true_iff, countDown_val]
  omega

theorem endsOperation_eq_false {g : Geom} (h : 2 ≤ g.anx.val ∨ 2 ≤ g.ny.val) :
    g.endsOperation = false := by
  rw [Bool.eq_false_iff, Ne, endsOperation_iff]
  omega

theorem advanceSource_in_row {g : Geom} (h : 2 ≤ g.anx.val) :
    g.advanceSource = { g with asx := g.asx + g.tx.toInt, anx := countDown g.anx } :=
  if_neg (by rw [endsRow_iff]; omega)

theorem advanceSource_at_end {g : Geom} (h : g.anx.val ≤ 1) :
    g.advanceSource =
      { g with ny := countDown g.ny, sy := g.sy + g.ty.toInt, asx := g.sx, anx := g.nx } :=
  if_pos ((endsRow_iff g).2 h)

theorem advanceDest_in_row {g : Geom} (h : 2 ≤ g.anx.val) :
    g.advanceDest = { g with adx := g.adx + g.tx.toInt, anx := countDown g.anx } :=
  if_neg (by rw [endsRow_iff]; omega)

theorem advanceDest_at_end {g : Geom} (h : g.anx.val ≤ 1) :
    g.advanceDest =
      { g with ny := countDown g.ny, dy := g.dy + g.ty.toInt, adx := g.dx, anx := g.nx } :=
  if_pos ((endsRow_iff g).2 h)

/-- A step inside a row keeps the operation. -/
theorem advance_in_row {s : State} {g : Geom} {move : Geom → Geom} (h : s.geom = some g)
    (he : g.endsOperation = false) : s.advance move = { s with geom := some (move g) } := by
  simp [State.advance, h, he]

/-- The last step finishes, its own cost counted. -/
theorem advance_last {s : State} {g : Geom} {move : Geom → Geom} (h : s.geom = some g)
    (he : g.endsOperation = true) : s.advance move = { s with
      lastCost := (move g).opc
      geom := none
      ce := false
      tr := false } := by
  simp [State.advance, h, he, State.finish, State.counter]

@[simp] theorem advanceSource_opc (g : Geom) : g.advanceSource.opc = g.opc := by
  unfold Geom.advanceSource; split <;> rfl

@[simp] theorem advanceDest_opc (g : Geom) : g.advanceDest.opc = g.opc := by
  unfold Geom.advanceDest; split <;> rfl

/-- A transfer step changes the geometry and what `Finish()` clears, nothing else. -/
theorem advance_eq (s : State) (move : Geom → Geom) : s.advance move = { s with
    lastCost := (s.advance move).lastCost
    geom := (s.advance move).geom
    ce := (s.advance move).ce
    tr := (s.advance move).tr } := by
  unfold State.advance
  split
  · rfl
  · dsimp only; split <;> rfl

end Sys2Proof.Machine
end

