-- ==== Sys2Proof/Laws/Invariant.lean ====
section
/-! SUPPORT. The position of a transfer: a start puts it in its rectangle, and every step keeps it there. -/

namespace Sys2Proof.Machine

theorem toInt_cases (d : Dir) : (d = .plus ∧ d.toInt = 1) ∨ (d = .minus ∧ d.toInt = -1) := by
  cases d <;> simp [Dir.toInt]

theorem rowOk_start (d : Dir) {y n : Nat} (hy : y < 1024) (hn : n < 1024) : RowOk d y n := by
  cases d <;> simp only [RowOk] <;> omega

/-- The next row has one row less to go. -/
theorem rowOk_next {d : Dir} {y : Int} {n : Nat} (h : RowOk d y n) (hn : 2 ≤ n) :
    RowOk d (y + d.toInt) (n - 1) := by
  cases d <;> simp only [RowOk, Dir.toInt] at * <;> omega

/-- A logical transfer starts at the corner of its rectangle (40_dispatch.md R105). -/
theorem snapshot_positionOk (op : Opcode) (lo : BitVec 4) (l : Layout) {r : Regs}
    (hx : r.nx ≠ 0) (hy : r.ny ≠ 0) : (snapshot op lo l r).PositionOk := by
  have hx' : r.nx.toNat ≠ 0 := fun h => hx (BitVec.eq_of_toNat_eq h)
  have hy' : r.ny.toNat ≠ 0 := fun h => hy (BitVec.eq_of_toNat_eq h)
  have h1 := r.sx.isLt; have h2 := r.dx.isLt; have h3 := r.sy.isLt; have h4 := r.dy.isLt
  have h5 := r.ny.isLt
  constructor
  · rfl
  · exact ⟨Nat.one_le_iff_ne_zero.2 hx', Nat.le_refl _, Nat.one_le_iff_ne_zero.2 hy'⟩
  · show 0 ≤ (r.sx.toNat : Int) ∧ (r.sx.toNat : Int) ≤ 511; omega
  · show 0 ≤ (r.dx.toNat : Int) ∧ (r.dx.toNat : Int) ≤ 511; omega
  · simp [snapshot]
  · simp [snapshot]
  · split
    · exact rowOk_start _ h3 h5
    · show 0 ≤ (r.sy.toNat : Int) ∧ (r.sy.toNat : Int) ≤ 1023; omega
  · split
    · show 0 ≤ (r.dy.toNat : Int) ∧ (r.dy.toNat : Int) ≤ 1023; omega
    · exact rowOk_start _ h4 h5

/-- An HMMC of at least one byte starts at the corner of its rectangle (44_high_speed_moves.md R187). -/
theorem inByteUnits_positionOk {lo : BitVec 4} {l : Layout} {r : Regs} (hy : r.ny ≠ 0)
    (hb : (snapshot .hmmc lo l r).inByteUnits.nx.val ≠ 0) :
    (snapshot .hmmc lo l r).inByteUnits.PositionOk := by
  have hy' : r.ny.toNat ≠ 0 := fun h => hy (BitVec.eq_of_toNat_eq h)
  have h1 := r.sx.isLt; have h2 := r.dx.isLt; have h3 := r.sy.isLt; have h4 := r.dy.isLt
  have h5 := r.ny.isLt
  constructor
  · rfl
  · exact ⟨Nat.one_le_iff_ne_zero.2 hb, Nat.le_refl _, Nat.one_le_iff_ne_zero.2 hy'⟩
  · show 0 ≤ (r.sx.toNat : Int) ∧ (r.sx.toNat : Int) ≤ 511; omega
  · show 0 ≤ (r.dx.toNat : Int) / 2 ^ l.byteShift ∧ (r.dx.toNat : Int) / 2 ^ l.byteShift ≤ 511
    cases l <;> simp only [Layout.byteShift] <;> omega
  · rfl
  · simp [Geom.inByteUnits, snapshot]
  · show 0 ≤ (r.sy.toNat : Int) ∧ (r.sy.toNat : Int) ≤ 1023; omega
  · exact rowOk_start _ h4 h5

/-- An LMCM step that is not the last keeps the position in the rectangle. -/
theorem advanceSource_positionOk {g : Geom} (h : g.PositionOk) (hc : g.cm = .lmcm)
    (he : g.endsOperation = false) : g.advanceSource.PositionOk := by
  have he' : ¬ (g.anx.val ≤ 1 ∧ g.ny.val ≤ 1) := fun h => by
    rw [(endsOperation_iff g).2 h] at he; cases he
  obtain ⟨h1, ⟨h2, h3, h4⟩, h5, h6, h7, h8, h9, h10⟩ := h
  simp only [hc, if_true] at h7 h8 h9 h10
  by_cases ha : 2 ≤ g.anx.val
  · rw [advanceSource_in_row ha]
    constructor <;> simp only [hc, if_true, countDown_val] <;> try assumption
    · omega
    · rw [h7]
      obtain ⟨_, ht⟩ | ⟨_, ht⟩ := toInt_cases g.tx <;> rw [ht] <;> omega
  · rw [advanceSource_at_end (by omega)]
    constructor <;> simp only [hc, if_true, countDown_val] <;> try assumption
    · omega
    · simp
    · exact rowOk_next h9 (by omega)

/-- An LMMC or HMMC step that is not the last keeps the position in the rectangle. -/
theorem advanceDest_positionOk {g : Geom} (h : g.PositionOk) (hc : g.cm ≠ .lmcm)
    (he : g.endsOperation = false) : g.advanceDest.PositionOk := by
  have he' : ¬ (g.anx.val ≤ 1 ∧ g.ny.val ≤ 1) := fun h => by
    rw [(endsOperation_iff g).2 h] at he; cases he
  obtain ⟨h1, ⟨h2, h3, h4⟩, h5, h6, h7, h8, h9, h10⟩ := h
  simp only [hc, if_false] at h7 h8 h9 h10
  by_cases ha : 2 ≤ g.anx.val
  · rw [advanceDest_in_row ha]
    constructor <;> simp only [hc, if_false, countDown_val] <;> try assumption
    · omega
    · rw [h8]
      obtain ⟨_, ht⟩ | ⟨_, ht⟩ := toInt_cases g.tx <;> rw [ht] <;> omega
  · rw [advanceDest_at_end (by omega)]
    constructor <;> simp only [hc, if_false, countDown_val] <;> try assumption
    · omega
    · simp
    · exact rowOk_next h10 (by omega)

end Sys2Proof.Machine
end

