-- ==== Sys2Proof/Laws/PerInstr.lean ====
section
/-! SUPPORT. Every constructor of the instruction set against its row of spec/opcode_table.json. -/

namespace Sys2Proof

/-- Masking two appended fields masks each of them. -/
theorem append_and {m n : Nat} (a c : BitVec m) (b d : BitVec n) :
    (a ++ b) &&& (c ++ d) = (a &&& c) ++ (b &&& d) := by
  ext i hi
  simp only [BitVec.getElem_and, BitVec.getElem_append]
  split <;> rfl

/-- Masking a word masks its three fields. -/
theorem hostWord_and (k i mk mi : BitVec 4) (v mv : Byte) :
    hostWord k i v &&& hostWord mk mi mv = hostWord (k &&& mk) (i &&& mi) (v &&& mv) :=
  (append_and (k ++ i) (mk ++ mi) v mv).trans (congrArg (· ++ (v &&& mv)) (append_and k mk i mi))

/-- The row's mask and match, as spec/opcode_table.json gives them. -/
def tableRow : Instr → HostWord × HostWord
  | .wrSxl _ => (0xFF00, 0x0000)
  | .wrSxh _ => (0xFF00, 0x0100)
  | .wrSyl _ => (0xFF00, 0x0200)
  | .wrSyh _ => (0xFF00, 0x0300)
  | .wrDxl _ => (0xFF00, 0x0400)
  | .wrDxh _ => (0xFF00, 0x0500)
  | .wrDyl _ => (0xFF00, 0x0600)
  | .wrDyh _ => (0xFF00, 0x0700)
  | .wrNxl _ => (0xFF00, 0x0800)
  | .wrNxh _ => (0xFF00, 0x0900)
  | .wrNyl _ => (0xFF00, 0x0A00)
  | .wrNyh _ => (0xFF00, 0x0B00)
  | .wrClr _ => (0xFF00, 0x0C00)
  | .wrArg _ => (0xFF00, 0x0D00)
  | .cmdStop _ => (0xFFF0, 0x0E00)
  | .cmdUnknown1 _ => (0xFFF0, 0x0E10)
  | .cmdUnknown2 _ => (0xFFF0, 0x0E20)
  | .cmdUnknown3 _ => (0xFFF0, 0x0E30)
  | .cmdUnknown4 _ => (0xFFF0, 0x0E40)
  | .cmdUnknown5 _ => (0xFFF0, 0x0E50)
  | .cmdSrch _ => (0xFFF0, 0x0E60)
  | .cmdLine _ => (0xFFF0, 0x0E70)
  | .cmdLmmv _ => (0xFFF0, 0x0E80)
  | .cmdLmmm _ => (0xFFF0, 0x0E90)
  | .cmdLmcm _ => (0xFFF0, 0x0EA0)
  | .cmdLmmc _ => (0xFFF0, 0x0EB0)
  | .cmdHmmv _ => (0xFFF0, 0x0EC0)
  | .cmdHmmm _ => (0xFFF0, 0x0ED0)
  | .cmdYmmm _ => (0xFFF0, 0x0EE0)
  | .cmdHmmc _ => (0xFFF0, 0x0EF0)
  | .wr15 _ => (0xFF00, 0x0F00)
  | .rs => (0xF000, 0x1000)
  | .rp => (0xF000, 0x2000)
  | .mode _ => (0xF000, 0x3000)
  | .vnote => (0xF000, 0x4000)
  | .save => (0xF000, 0x5000)
  | .restore => (0xF000, 0x6000)
  | .reservedKind7 => (0xF000, 0x7000)
  | .reservedKinds8F => (0x8000, 0x8000)

theorem nibble_and_ones (x : BitVec 4) : x &&& 0xF = x := by revert x; decide

theorem nibble_and_zero (x : BitVec 4) : x &&& 0 = 0 := by revert x; decide

theorem byte_and_zero (x : Byte) : x &&& 0 = 0 := BitVec.and_zero

/-- A write word under the mask of its row. -/
theorem write_row (idx : BitVec 4) (v : Byte) :
    hostWord 0 idx v &&& 0xFF00 = hostWord 0 idx 0 := by
  refine (hostWord_and 0 idx 0xF 0xF v 0).trans ?_
  rw [nibble_and_ones, nibble_and_ones, byte_and_zero]

/-- A command word under the mask of its row. -/
theorem command_row (op : Opcode) (lo : BitVec 4) :
    hostWord 0 14 (commandByte op lo) &&& 0xFFF0 = hostWord 0 14 (commandByte op 0) := by
  refine (hostWord_and 0 14 0xF 0xF (commandByte op lo) 0xF0).trans ?_
  have h : commandByte op lo &&& 0xF0 = commandByte op 0 := by
    refine (append_and op.code 0xF lo 0).trans ?_
    rw [nibble_and_ones, nibble_and_zero]
    rfl
  rw [nibble_and_ones, nibble_and_ones, h]

/-- A mode word under the mask of its row. -/
theorem mode_row (m : Byte) : hostWord 3 0 m &&& 0xF000 = 0x3000 := by
  refine (hostWord_and 3 0 0xF 0 m 0).trans ?_
  rw [nibble_and_ones, nibble_and_zero, byte_and_zero]
  rfl

namespace Laws.TableRow

/-- The instruction's word carries the fixed bits of its row. -/
def Statement (i : Instr) : Prop := encode i &&& (tableRow i).1 = (tableRow i).2

theorem wrSxl (v : Byte) : Statement (.wrSxl v) := (write_row _ v).trans rfl
theorem wrSxh (v : Byte) : Statement (.wrSxh v) := (write_row _ v).trans rfl
theorem wrSyl (v : Byte) : Statement (.wrSyl v) := (write_row _ v).trans rfl
theorem wrSyh (v : Byte) : Statement (.wrSyh v) := (write_row _ v).trans rfl
theorem wrDxl (v : Byte) : Statement (.wrDxl v) := (write_row _ v).trans rfl
theorem wrDxh (v : Byte) : Statement (.wrDxh v) := (write_row _ v).trans rfl
theorem wrDyl (v : Byte) : Statement (.wrDyl v) := (write_row _ v).trans rfl
theorem wrDyh (v : Byte) : Statement (.wrDyh v) := (write_row _ v).trans rfl
theorem wrNxl (v : Byte) : Statement (.wrNxl v) := (write_row _ v).trans rfl
theorem wrNxh (v : Byte) : Statement (.wrNxh v) := (write_row _ v).trans rfl
theorem wrNyl (v : Byte) : Statement (.wrNyl v) := (write_row _ v).trans rfl
theorem wrNyh (v : Byte) : Statement (.wrNyh v) := (write_row _ v).trans rfl
theorem wrClr (v : Byte) : Statement (.wrClr v) := (write_row _ v).trans rfl
theorem wrArg (v : Byte) : Statement (.wrArg v) := (write_row _ v).trans rfl
theorem cmdStop (lo : BitVec 4) : Statement (.cmdStop lo) := (command_row _ lo).trans rfl
theorem cmdUnknown1 (lo : BitVec 4) : Statement (.cmdUnknown1 lo) := (command_row _ lo).trans rfl
theorem cmdUnknown2 (lo : BitVec 4) : Statement (.cmdUnknown2 lo) := (command_row _ lo).trans rfl
theorem cmdUnknown3 (lo : BitVec 4) : Statement (.cmdUnknown3 lo) := (command_row _ lo).trans rfl
theorem cmdUnknown4 (lo : BitVec 4) : Statement (.cmdUnknown4 lo) := (command_row _ lo).trans rfl
theorem cmdUnknown5 (lo : BitVec 4) : Statement (.cmdUnknown5 lo) := (command_row _ lo).trans rfl
theorem cmdSrch (lo : BitVec 4) : Statement (.cmdSrch lo) := (command_row _ lo).trans rfl
theorem cmdLine (lo : BitVec 4) : Statement (.cmdLine lo) := (command_row _ lo).trans rfl
theorem cmdLmmv (lo : BitVec 4) : Statement (.cmdLmmv lo) := (command_row _ lo).trans rfl
theorem cmdLmmm (lo : BitVec 4) : Statement (.cmdLmmm lo) := (command_row _ lo).trans rfl
theorem cmdLmcm (lo : BitVec 4) : Statement (.cmdLmcm lo) := (command_row _ lo).trans rfl
theorem cmdLmmc (lo : BitVec 4) : Statement (.cmdLmmc lo) := (command_row _ lo).trans rfl
theorem cmdHmmv (lo : BitVec 4) : Statement (.cmdHmmv lo) := (command_row _ lo).trans rfl
theorem cmdHmmm (lo : BitVec 4) : Statement (.cmdHmmm lo) := (command_row _ lo).trans rfl
theorem cmdYmmm (lo : BitVec 4) : Statement (.cmdYmmm lo) := (command_row _ lo).trans rfl
theorem cmdHmmc (lo : BitVec 4) : Statement (.cmdHmmc lo) := (command_row _ lo).trans rfl
theorem wr15 (v : Byte) : Statement (.wr15 v) := (write_row _ v).trans rfl
theorem rs : Statement (.rs) := by unfold Statement; decide
theorem rp : Statement (.rp) := by unfold Statement; decide
theorem mode (m : Byte) : Statement (.mode m) := mode_row m
theorem vnote : Statement (.vnote) := by unfold Statement; decide
theorem save : Statement (.save) := by unfold Statement; decide
theorem restore : Statement (.restore) := by unfold Statement; decide
theorem reservedKind7 : Statement (.reservedKind7) := by unfold Statement; decide
theorem reservedKinds8F : Statement (.reservedKinds8F) := by unfold Statement; decide

end Laws.TableRow

end Sys2Proof
end

