-- ==== Sys2Proof/Tests/Slice0.lean ====
section
/-! SUPPORT. Tests of the model against the spec's own vectors (95_test_vectors.md V<n>), words written out
from 30_encoding.md, and a witness for the hypotheses of every statement that has some. -/

namespace Sys2Proof.Tests

open Sys2Proof.Machine

/-! ## Helpers -/

/-- The reset state in layout `l` with registers given as (index, byte) pairs and VRAM cells listed. -/
def idle (l : Layout) (regs : List (Fin 15 × Byte)) (vram : Memory) : State :=
  { State.reset with
    mode := .layout l
    regs := regs.foldl (fun r p => r.set p.1 p.2) State.reset.regs
    vram := vram }

/-- One observation of the state after a call, if there is one. -/
def after {α : Type} (i : Instr) (s : State) (f : State → α) : Option α :=
  match exec i s with
  | .next t => some (f t)
  | .fault _ => none
  | .refused _ => none

/-- The state after a call, the same state if there is none. -/
def next (i : Instr) (s : State) : State :=
  match exec i s with
  | .next t => t
  | .fault _ => s
  | .refused _ => s

/-- The fault a call answers. -/
def faultOf (o : Host.Outcome State Fault Refusal) : Option Fault :=
  match o with
  | .fault r => some r
  | .next _ => none
  | .refused _ => none

/-- The refusal a call answers. -/
def refusalOf (o : Host.Outcome State Fault Refusal) : Option Refusal :=
  match o with
  | .refused r => some r
  | .next _ => none
  | .fault _ => none

/-! ## WellFormed: the one check, a reserved kind, refuses (30_encoding.md R92, V6) -/

theorem test_wellFormed_refuses_kind_7 : Instr.reservedKind7.wellFormed = false := by decide

theorem test_wellFormed_refuses_kinds_8_to_F : Instr.reservedKinds8F.wellFormed = false := by decide

theorem test_wellFormed_takes_wr_15 : (Instr.wr15 5).wellFormed = true := by decide

/-! ## Decoding: words written out from 30_encoding.md R80, R85, R89 and R90, kind idx value -/

theorem test_decode_source_writes :
    decode 0b0000000010100101 = .wrSxl 0xA5 ∧ decode 0b0000000110100101 = .wrSxh 0xA5 ∧
    decode 0b0000001010100101 = .wrSyl 0xA5 ∧ decode 0b0000001110100101 = .wrSyh 0xA5 := by decide

theorem test_decode_destination_writes :
    decode 0b0000010010100101 = .wrDxl 0xA5 ∧ decode 0b0000010110100101 = .wrDxh 0xA5 ∧
    decode 0b0000011010100101 = .wrDyl 0xA5 ∧ decode 0b0000011110100101 = .wrDyh 0xA5 := by decide

theorem test_decode_size_writes :
    decode 0b0000100010100101 = .wrNxl 0xA5 ∧ decode 0b0000100110100101 = .wrNxh 0xA5 ∧
    decode 0b0000101010100101 = .wrNyl 0xA5 ∧ decode 0b0000101110100101 = .wrNyh 0xA5 := by decide

theorem test_decode_other_writes :
    decode 0b0000110010100101 = .wrClr 0xA5 ∧ decode 0b0000110110100101 = .wrArg 0xA5 ∧
    decode 0b0000111110100101 = .wr15 0xA5 := by decide

theorem test_decode_noop_commands :
    decode 0b0000111000001001 = .cmdStop 9 ∧ decode 0b0000111000011001 = .cmdUnknown1 9 ∧
    decode 0b0000111000101001 = .cmdUnknown2 9 ∧ decode 0b0000111000111001 = .cmdUnknown3 9 ∧
    decode 0b0000111001001001 = .cmdUnknown4 9 ∧ decode 0b0000111001011001 = .cmdUnknown5 9 := by decide

theorem test_decode_search_line_and_logical_moves :
    decode 0b0000111001101001 = .cmdSrch 9 ∧ decode 0b0000111001111001 = .cmdLine 9 ∧
    decode 0b0000111010001001 = .cmdLmmv 9 ∧ decode 0b0000111010011001 = .cmdLmmm 9 ∧
    decode 0b0000111010101001 = .cmdLmcm 9 ∧ decode 0b0000111010111001 = .cmdLmmc 9 := by decide

theorem test_decode_high_speed_moves :
    decode 0b0000111011001001 = .cmdHmmv 9 ∧ decode 0b0000111011011001 = .cmdHmmm 9 ∧
    decode 0b0000111011101001 = .cmdYmmm 9 ∧ decode 0b0000111011111001 = .cmdHmmc 9 := by decide

/-- The ignored bits are set in each word (30_encoding.md R92). -/
theorem test_decode_other_calls :
    decode 0b0001111111111111 = .rs ∧ decode 0b0010111111111111 = .rp ∧
    decode 0b0011111100000011 = .mode 3 ∧ decode 0b0100111111111111 = .vnote ∧
    decode 0b0101111111111111 = .save ∧ decode 0b0110111111111111 = .restore := by decide

theorem test_decode_reserved_words :
    decode 0b0111000000000000 = .reservedKind7 ∧ decode 0b1000000000000000 = .reservedKinds8F ∧
    decode 0b1111000100100011 = .reservedKinds8F := by decide

theorem test_encode_words :
    encode (.cmdLmmv 2) = 0x0E82 ∧ encode (.wrDxl 44) = 0x042C ∧ encode (.wrDxh 1) = 0x0501 ∧
    encode (.mode 7) = 0x3007 := by decide

theorem test_decodeTableWord :
    decodeTableWord 16 0x0E82 = some (.cmdLmmv 2) ∧ decodeTableWord 8 0x0E82 = some (.wrSxl 0x82) ∧
    decodeTableWord 32 0x0E82 = none := by decide

/-! ## The pixel accessor (V10 to V39d) -/

theorem test_linear_addresses :
    Layout.l0.address false 5 3 = 0x00182 ∧ Layout.l0.address false 300 2 = 0x00116 ∧
    Layout.l0.address false 7 1100 = 0x02603 ∧ Layout.l1.address false 5 3 = 0x00181 ∧
    Layout.l1.address false 600 0 = 0x00016 ∧ Layout.l2.address false 5 3 = 0x00302 ∧
    Layout.l2.address false 3 600 = 0x05801 ∧ Layout.l3.address false 5 3 = 0x00305 ∧
    Layout.l3.address false 256 512 = 0x00000 ∧ Layout.l3.address false (-1) (-1) = 0x1FFFF := by
  decide

theorem test_interleaved_addresses :
    Layout.l2.address true 1 0 = 0x00000 ∧ Layout.l2.address true 3 0 = 0x10000 ∧
    Layout.l2.address true 4 1 = 0x00081 ∧ Layout.l3.address true 1 0 = 0x10000 ∧
    Layout.l3.address true 2 0 = 0x00001 ∧ Layout.l3.address true 5 3 = 0x10182 ∧
    Layout.l3.address true 255 511 = 0x1FFFF := by
  decide

theorem test_shifts :
    Layout.l0.bitOffset 300 = 4 ∧ Layout.l0.bitOffset 5 = 0 ∧ Layout.l1.bitOffset 5 = 4 ∧
    Layout.l1.bitOffset 511 = 0 ∧ Layout.l1.bitOffset 600 = 6 ∧ Layout.l2.bitOffset 5 = 0 ∧
    Layout.l3.bitOffset 5 = 0 := by
  decide

/-- The byte SetPixel leaves of the byte `b` at the address of pixel (x, 0). -/
def pixelByte (l : Layout) (x : Int) (b c : Byte) (lo : BitVec 4) : Byte :=
  let s := { State.reset with vram := [((l.address false x 0).toNat, b)] }
  (s.setPixel l x 0 c lo).vram.read (l.address false x 0)

theorem test_setPixel_placement :
    pixelByte .l0 5 0xAB 3 0 = 0xA3 ∧ pixelByte .l0 4 0xAB 3 0 = 0x3B ∧ pixelByte .l1 1 0xFF 0 0 = 0xCF ∧
    pixelByte .l1 3 0xE4 1 4 = 0xE6 ∧ pixelByte .l0 0 0xA5 0x15 0 = 0x55 := by
  decide

theorem test_setPixel_operations :
    [0, 1, 2, 3, 4].map (pixelByte .l0 0 0xA5 6) = [0x65, 0x25, 0xE5, 0xC5, 0x95] ∧
    [8, 9, 10, 11, 12].map (pixelByte .l0 0 0xA5 6) = [0x65, 0x25, 0xE5, 0xC5, 0x95] ∧
    [0, 1, 2, 3, 4].map (pixelByte .l0 0 0xA5 0) = [0x05, 0x05, 0xA5, 0xA5, 0xF5] ∧
    [8, 9, 10, 11, 12].map (pixelByte .l0 0 0xA5 0) = [0xA5, 0xA5, 0xA5, 0xA5, 0xA5] := by
  decide

theorem test_setPixel_transparency :
    pixelByte .l3 0 0x02 1 9 = 0x00 ∧ pixelByte .l3 0 0x55 0x5A 4 = 0xA5 ∧
    pixelByte .l0 0 0x77 0x10 8 = 0x77 := by
  decide

theorem test_getPixel :
    [0, 1, 2, 3].map (State.getPixel { State.reset with vram := [(0, 0x1B)] } .l1 · 0) = [0, 1, 2, 3] := by
  decide

/-! ## Register writes and the NOOP commands -/

/-- Each write reaches the register of its index and no other (30_encoding.md R80). -/
theorem test_plain_writes :
    (plainWrites 0xA5).map (fun p => after p.1 State.reset (·.regs.toList)) =
      [0, 1, 2, 3, 4, 5, 6, 7, 8, 9, 10, 11, 13].map
        (fun k => some ((List.replicate 15 (0x00 : Byte)).set k 0xA5)) := by
  decide

/-- V84: a colour write with no transfer active only stores the byte. -/
theorem test_wr_clr_idle :
    after (.wrClr 0x55) (idle .l3 [] []) (fun t => (t.regs[12], t.vram)) = some (0x55, []) := by
  decide

/-- V7: WR 15 faults and no register changes; the next call has no step. -/
theorem test_wr_15 :
    after (.wr15 5) State.reset (fun t => (t.fault, decide (t.regs = State.reset.regs))) =
      some (some (.registerIndexOutOfRange 15), true) ∧
    faultOf (exec .rs (next (.wr15 5) State.reset)) = some (.registerIndexOutOfRange 15) := by
  decide

/-- An LMMC of 4 by 4 pixels just started in layout 3 (Scenario C). -/
def lmmc : State := next (.cmdLmmc 0) (idle .l3 [(8, 4), (10, 4)] [])

/-- V107: STOP ends a transfer and clears the last cost. -/
theorem test_stop :
    after (.cmdStop 0) lmmc (fun t => (t.status, t.geom, t.lastCost, t.regs[14])) =
      some (0x00, none, 0, 0x00) := by
  decide

/-- V106: the unknown codes are no-ops that store the command byte, in mode OTHER too. -/
theorem test_unknown_commands :
    [Instr.cmdUnknown1 15, .cmdUnknown2 15, .cmdUnknown3 15, .cmdUnknown4 15, .cmdUnknown5 15].map
      (fun i => after i State.reset (fun t => (t.regs[14], t.status, t.vram.length, t.refused.isSome))) =
      [some (0x1F, 0x00, 0, false), some (0x2F, 0x00, 0, false), some (0x3F, 0x00, 0, false),
       some (0x4F, 0x00, 0, false), some (0x5F, 0x00, 0, false)] := by
  decide

/-- V105: a start in mode OTHER is refused, the command byte stored. -/
theorem test_start_in_other :
    after (.cmdLmmv 0) State.reset (fun t => (t.refused, t.regs[14])) =
      some (some .noBitmapLayout, 0x80) := by
  decide

/-! ## SRCH and LINE -/

/-- V41: the first pixel not equal to 0 in row 2 stands at X = 9. -/
theorem test_srch_not_equal :
    after (.cmdSrch 0) (idle .l0 [(2, 2), (13, 0x02)] [(0x104, 0x04)])
      (fun t => (t.bd, t.borderX, t.ce)) = some (true, 9, false) := by
  decide

/-- V44 and V45: no match to the left of X = 10, under both settings of SRCH_EDGE_X. -/
theorem test_srch_edge :
    after (.cmdSrch 0) (idle .l0 [(0, 10), (12, 5), (13, 0x04)] []) (fun t => (t.bd, t.borderX)) =
      some (false, 0) ∧
    after (.cmdSrch 0)
      { idle .l0 [(0, 10), (12, 5), (13, 0x04)] [] with
        params := { Config.defaultParams with srchEdgeX := .firstOutOfRange } }
      (fun t => (t.bd, t.borderX)) = some (false, -1) := by
  decide

/-- V50: the pixels of a line of slope 1/2. -/
theorem test_line_x_major :
    after (.cmdLine 0) (idle .l3 [(8, 4), (10, 2), (12, 9)] []) (·.vram) =
      some [(0x000, 9), (0x101, 9), (0x102, 9), (0x203, 9), (0x204, 9)] := by
  decide

/-- V59: a Y-major line upwards, over the top edge. -/
theorem test_line_y_major :
    after (.cmdLine 0) (idle .l3 [(8, 5), (10, 2), (12, 1), (13, 0x09)] []) (·.vram) =
      some [(0x00000, 1), (0x1FB02, 1), (0x1FC02, 1), (0x1FD01, 1), (0x1FE01, 1), (0x1FF00, 1)] := by
  decide

/-! ## Logical moves -/

/-- V63: a fill to the left and upwards. -/
theorem test_lmmv_directions :
    after (.cmdLmmv 0) (idle .l0 [(4, 5), (6, 3), (8, 3), (10, 2), (12, 0xF), (13, 0x0C)] []) (·.vram) =
      some [(0x101, 0x0F), (0x102, 0xFF), (0x181, 0x0F), (0x182, 0xFF)] := by
  decide

/-- V65: NX = 0 changes nothing. -/
theorem test_lmmv_degenerate :
    after (.cmdLmmv 0) (idle .l3 [(10, 4), (12, 5)] []) (fun t => (t.vram, t.status, t.lastCost)) =
      some ([], 0x00, 0) := by
  decide

/-- V73: a forward copy over an overlap repeats the pattern. -/
theorem test_lmmm_forward_overlap :
    after (.cmdLmmm 0) (idle .l3 [(4, 2), (8, 4), (10, 1)] [(0, 1), (1, 2), (2, 3), (3, 4)]) (·.vram) =
      some [(0, 1), (1, 2), (2, 1), (3, 2), (4, 1), (5, 2)] := by
  decide

/-- V78: a transparent copy skips zeros. -/
theorem test_lmmm_transparent :
    after (.cmdLmmm 8) (idle .l0 [(6, 1), (8, 4), (10, 1)] [(0, 0x10), (1, 0x02), (128, 0x99), (129, 0x99)])
      (fun t => (t.vram.read 128, t.vram.read 129)) = some (0x19, 0x92) := by
  decide

/-- V79: an LMCM waits with status 0x81. -/
theorem test_lmcm_start :
    after (.cmdLmcm 0) (idle .l0 [(8, 2), (10, 1)] [(0, 0xAB)]) (fun t => (t.status, t.replies)) =
      some (0x81, []) := by
  decide

/-- V81: to the left, then the next row. -/
theorem test_rp_row_end :
    let s := next (.cmdLmcm 0)
      (idle .l1 [(0, 1), (8, 2), (10, 2), (13, 0x04)] [(0, 0x1B), (128, 0xE4)])
    after .rp (next .rp (next .rp s)) (fun t => (t.replies, t.status)) = some ([1, 0, 2], 0x81) := by
  decide

/-- V80: no pixel to read. -/
theorem test_rp_inactive :
    after .rp (idle .l0 [] []) (fun t => (t.fault, t.replies)) =
      some (some .pixelReadWhenInactive, []) := by
  decide

/-- Scenario C: status 0x81 after the start; CL at the start is no pixel (43_logical_moves.md R170). -/
theorem test_lmmc_start :
    after (.cmdLmmc 0) (idle .l3 [(8, 4), (10, 4), (12, 7)] []) (fun t => (t.status, t.vram)) =
      some (0x81, []) := by
  decide

/-- V83: the last of three pixels, a transparent zero before it. -/
theorem test_wr_clr_lmmc :
    let s := next (.cmdLmmc 8) (idle .l0 [(4, 1), (8, 3), (10, 1)] [(0, 0xFF), (1, 0xFF)])
    after (.wrClr 0x03) (next (.wrClr 0x00) (next (.wrClr 0x12) s)) (fun t => (t.vram, t.status)) =
      some ([(0, 0xF2), (1, 0xF3)], 0x00) := by
  decide

/-! ## High-speed moves -/

/-- V91: byte columns, to the left, LO ignored. -/
theorem test_hmmv :
    after (.cmdHmmv 3) (idle .l0 [(4, 5), (8, 5), (10, 2), (12, 0x5A), (13, 0x04)] []) (·.vram) =
      some [(1, 0x5A), (2, 0x5A), (129, 0x5A), (130, 0x5A)] := by
  decide

/-- V92: a width that rounds down to no byte. -/
theorem test_hmmv_narrow :
    after (.cmdHmmv 0) (idle .l1 [(8, 3), (10, 1), (12, 0xFF)] []) (fun t => (t.vram, t.status)) =
      some ([], 0x00) := by
  decide

/-- V96: an odd SX moves the whole byte. -/
theorem test_hmmm :
    after (.cmdHmmm 0) (idle .l0 [(0, 3), (6, 1), (8, 4), (10, 1)] [(0, 0x12), (1, 0x34), (2, 0x56)])
      (·.vram) = some [(0, 0x12), (1, 0x34), (2, 0x56), (128, 0x34), (129, 0x56)] := by
  decide

/-- V98: from DX to the left edge. -/
theorem test_ymmm_left :
    after (.cmdYmmm 0) (idle .l3 [(4, 2), (6, 10), (8, 1), (10, 1), (13, 0x04)]
      [(0, 7), (1, 8), (2, 9), (3, 10)]) (·.vram) =
      some [(0, 7), (1, 8), (2, 9), (3, 10), (2560, 7), (2561, 8), (2562, 9)] := by
  decide

/-- V99a: from DX to the right edge, NX not the width. -/
theorem test_ymmm_right :
    after (.cmdYmmm 0) (idle .l0 [(4, 251), (6, 1), (8, 9), (10, 1)] [(125, 0x33), (126, 0x44), (127, 0x55)])
      (·.vram) =
      some [(125, 0x33), (126, 0x44), (127, 0x55), (253, 0x33), (254, 0x44), (255, 0x55)] := by
  decide

/-- V101: the row length in bytes; V103: none. -/
theorem test_hmmc_start :
    after (.cmdHmmc 0) (idle .l1 [(8, 8), (10, 2)] []) (fun t => (t.status, t.geom.map (·.nx))) =
      some (0x81, some 2) ∧
    after (.cmdHmmc 0) (idle .l0 [(4, 7), (8, 1), (10, 3)] []) (fun t => (t.status, t.geom.isSome)) =
      some (0x00, false) := by
  decide

/-- V101: the third write lands in the next row. -/
theorem test_wr_clr_hmmc :
    let s := next (.cmdHmmc 0) (idle .l1 [(8, 8), (10, 2)] [])
    after (.wrClr 0x33) (next (.wrClr 0x22) (next (.wrClr 0x11) s)) (fun t => (t.vram, t.status)) =
      some ([(0, 0x11), (1, 0x22), (128, 0x33)], 0x81) := by
  decide

/-! ## The other calls -/

/-- 40_dispatch.md R113: during a transfer after a search that found its colour, 0x91. -/
theorem test_rs :
    after .rs { lmmc with bd := true } (·.replies) = some [0x91] := by
  decide

/-- V8, and 40_dispatch.md R115. -/
theorem test_mode :
    after (.mode 7) (idle .l3 [] []) (·.mode) = some .other ∧
    after (.mode 3) State.reset (·.mode) = some (.layout .l3) := by
  decide

/-- V112: no state change. -/
theorem test_vnote : after .vnote (idle .l3 [(8, 4)] []) id = some (idle .l3 [(8, 4)] []) := by
  decide

/-- 40_dispatch.md R118: the record of a state. -/
theorem test_save :
    after .save lmmc (fun t => t.saved.map fun r => (r.version, r.status, r.mode, r.regs[8])) =
      some (some (1, 0x81, .layout .l3, 4)) := by
  decide

/-- V130: after RESTORE the transfer stands where it stood. -/
theorem test_restore :
    let s := next .save (next (.wrClr 5) lmmc)
    after .restore (next (.cmdStop 0) s) (fun t => (t.status, t.geom.map fun g => (g.adx, g.anx))) =
      some (0x81, some (1, 3)) := by
  decide

/-- V131: a record of version 2. -/
theorem test_restore_bad_version :
    let s := next .save lmmc
    after .restore { s with saved := s.saved.map fun r => { r with version := 2 } } (·.refused) =
      some (some .badRecord) := by
  decide

/-- V6: a reserved word is refused. -/
theorem test_reserved_words :
    refusalOf (exec (decode 0x7000) lmmc) = some .reservedKind ∧
    refusalOf (exec (decode 0xF123) lmmc) = some .reservedKind := by
  decide

/-! ## The step -/

/-- A word placed for the next step is decoded and run: MODE 3. -/
theorem test_step_runs_the_word :
    (match step (State.reset.withFetchWord 16 0x3003) with
      | .next t => some (t.mode, t.inbox)
      | .fault _ => none
      | .refused _ => none) = some (.layout .l3, []) := by
  decide

/-- A program from reset: MODE 3 comes first, then a start is no longer refused
(70_reset_and_hazards.md R222). -/
theorem test_two_calls_from_reset :
    (match step (next (.mode 3) State.reset |>.withFetchWord 16 0x0E82) with
      | .next t => some (t.refused, t.regs[14])
      | .fault _ => none
      | .refused _ => none) = some (none, 0x82) := by
  decide

/-- The environment writes a byte between two calls (20_memory.md R52). -/
theorem test_step_environment_write :
    (match step { State.reset with inbox := [.vramWrite 7 0x55] } with
      | .next t => some t.vram
      | .fault _ => none
      | .refused _ => none) = some [(7, 0x55)] := by
  decide

/-- A reset event on a state that holds the fault mark clears the engine and keeps the mark
(70_reset_and_hazards.md R220, 60_exceptions.md R204). -/
theorem test_step_reset_keeps_the_mark :
    (match step { lmmc.raiseFault .pixelReadWhenInactive with inbox := [.reset] } with
      | .next t => some (t.fault, t.status, t.geom.isSome, t.regs.toList)
      | .fault _ => none
      | .refused _ => none) =
      some (some .pixelReadWhenInactive, 0, false, List.replicate 15 0) := by
  decide

/-! ## Witnesses: states and operands that meet the hypotheses of each statement, clause by clause -/

/-- The hypothesis of a start, as checked below on concrete states. -/
theorem starts_of {s : State} {l : Layout} (h : s.Unmarked)
    (hm : s.mode = .layout l ∧ (s.ce = false ∨ s.params.restartPolicy = .abort)) : s.Starts l :=
  ⟨h, hm.1, hm.2⟩

/-- An LMCM of 2 by 2 pixels just started in layout 1. -/
def lmcm : State := next (.cmdLmcm 0) (idle .l1 [(0, 1), (8, 2), (10, 2), (13, 0x04)] [(0, 0x1B)])

/-- An HMMC of 2 bytes by 2 rows just started in layout 1. -/
def hmmc : State := next (.cmdHmmc 0) (idle .l1 [(8, 8), (10, 2)] [])

theorem lmmc_geom :
    lmmc.geom = some (snapshot .lmmc 0 .l3 (idle .l3 [(8, 4), (10, 4)] []).regs) := by
  decide

theorem lmmc_inv : lmmc.Inv where
  engine :=
    { active := by decide
      ready := by decide
      border := by decide
      transfer := fun g hg => by
        rw [lmmc_geom] at hg
        cases hg
        exact ⟨rfl, snapshot_positionOk _ _ _ (by decide) (by decide)⟩ }
  memory := by decide
  record := fun r hr => by
    have h : lmmc.saved = none := by decide
    rw [h] at hr
    cases hr

theorem witness_DecodeOfEncodeIsIdentity : (Instr.cmdHmmc 15).wellFormed = true := by decide

/-- The edges of each clause of the bits taken. -/
theorem witness_EncodeOfDecodeKeepsTheBitsTaken :
    (0x0FFF : HostWord).toNat < 0x1000 ∧ 0x3000 ≤ (0x3000 : HostWord).toNat ∧
    (0x3FFF : HostWord).toNat < 0x4000 ∧ 0x1000 ≤ (0x1000 : HostWord).toNat ∧
    (0x6FFF : HostWord).toNat < 0x7000 := by decide

theorem witness_ReservedKindsAreRefused :
    0x7000 ≤ (0x7000 : HostWord).toNat ∧ 0x7000 ≤ (0xFFFF : HostWord).toNat := by decide

theorem witness_StepRunsTheDecodedCall :
    let c : HostCall := { word := 0x0E82, time := 9, blank := true }
    ({ lmmc with inbox := [.call c] } : State).inbox = .call c :: [] ∧ decode c.word = .cmdLmmv 2 ∧
      (Instr.cmdLmmv 2).wellFormed = true := by decide

theorem witness_StepTakesEnvironmentWrites :
    let s : State := { idle .l3 [] [(0x1FFFF, 1)] with inbox := [.vramWrite 0x1FFFF 0] }
    (s.inbox = .vramWrite 0x1FFFF 0 :: [] ∧ Memory.wf s.vram) ∧ State.reset.inbox = [] := by
  decide

theorem witness_ResetEventResetsTheEngineOnly :
    ({ lmmc with inbox := [.reset, .vramWrite 0 1] } : State).inbox = .reset :: [.vramWrite 0 1] := rfl

theorem witness_PlainWritesStoreTheByteOnly :
    lmmc.Unmarked ∧ (Instr.wrArg 0xFF, (13 : Fin 15)) ∈ plainWrites 0xFF := by decide

theorem witness_ColourWriteOutsideTransfersOnlyStores :
    (State.reset.Unmarked ∧ State.reset.ce = false) ∧
    (lmcm.Unmarked ∧ lmcm.ce = true ∧ lmcm.geom.map (·.cm) = some .lmcm) := by decide

/-- For the statements whose one hypothesis on the state is that it has no mark:
WriteOfRegister15RaisesTheFault, ReadStatusReturnsThePackedBits, VramNotificationHasNoEffect,
SaveTakesTheRecord and NoopCommandsEndTheOperation (idle, and with a transfer active). -/
theorem witness_Unmarked :
    State.reset.Unmarked ∧ lmmc.Unmarked ∧ lmmc.ce = true ∧
    (Instr.cmdUnknown5 15, (5 : BitVec 4)) ∈ noopCommands 15 := by decide

theorem witness_RegistersChangeOnlyByTheirWrite :
    ¬ (0x6000 ≤ (0x0C55 : HostWord).toNat ∧ (0x0C55 : HostWord).toNat < 0x7000) ∧
    (after (decode 0x0C55) lmmc id).isSome = true ∧ (after (decode 0x0E82) lmmc id).isSome = true ∧
    (after (decode 0x3002) lmmc id).isSome = true := by decide

theorem witness_MarkedStateIsStuck :
    (State.reset.raiseFault .pixelReadWhenInactive).fault = some .pixelReadWhenInactive ∧
    (State.reset.refuse .badRecord).fault = none ∧
    (State.reset.refuse .badRecord).refused = some .badRecord ∧
    (∃ t, step { State.reset.refuse .badRecord with inbox := [.reset] } = .next t) ∧
    (∃ t, step { State.reset.raiseFault .pixelReadWhenInactive with inbox := [.vramWrite 0 1] } = .next t) :=
  ⟨rfl, rfl, rfl, ⟨_, rfl⟩, ⟨_, rfl⟩⟩

theorem witness_UnmarkedCallsHaveAStep : (Instr.wr15 0).wellFormed = true ∧ lmcm.Unmarked := by
  decide

/-- The display modes at the edges of each clause. -/
theorem witness_ModeCallSetsTheModeOnly :
    State.reset.Unmarked ∧ 4 ≤ (4 : Byte).toNat ∧ 4 ≤ (0xFF : Byte).toNat := by decide

/-- A record of a transfer at the edges of the ranges of 10_state.md R32. -/
def edgeRecord : Record :=
  { lmmc.record with
    geom := lmmc.geom.map fun g => { g with asx := -511, adx := 1022, sy := 2046, dy := -1023 } }

theorem witness_RestoreReplacesTheRecordedFields :
    edgeRecord.version = 1 ∧ edgeRecord.status.getLsbD 0 = edgeRecord.geom.isSome ∧
    edgeRecord.status.getLsbD 7 = true ∧
    edgeRecord.geom.all (fun g => g.cm.isTransfer && decide (
      (-511 ≤ g.asx ∧ g.asx ≤ 1022 ∧ -511 ≤ g.adx ∧ g.adx ≤ 1022 ∧ -1023 ≤ g.sy ∧ g.sy ≤ 2046 ∧
        -1023 ≤ g.dy ∧ g.dy ≤ 2046) ∧ g.nx ≠ 0 ∧ g.anx ≠ 0 ∧ g.ny ≠ 0)) = true ∧
    ({ State.reset with saved := some edgeRecord } : State).Unmarked := by decide

/-- One bad record for each clause: the version, CE, TR, the range. -/
theorem witness_RestoreRefusesABadRecord :
    ({ edgeRecord with version := 2 } : Record).version ≠ 1 ∧
    ({ edgeRecord with geom := none } : Record).status.getLsbD 0 ≠ Option.isSome (none : Option Geom) ∧
    (({ edgeRecord with status := 0x01 } : Record).status.getLsbD 7 = false ∧
      edgeRecord.geom.any (·.cm.isTransfer) = true) ∧
    ((edgeRecord.geom.map fun g => { g with asx := 1023 }).any fun g =>
      g.cm.isTransfer && decide (¬ g.asx ≤ 1022)) = true := by decide

theorem witness_RestoreRefusesWhereNothingCanResume :
    State.reset.saved = none ∧
    ((lmmc.geom.map fun g => { g with anx := 0 }).any fun g =>
      g.cm.isTransfer && decide (g.anx = 0)) = true := by decide

theorem witness_RestoreAfterSaveRecoversTheEngine : lmmc.Unmarked ∧ lmmc.Inv :=
  ⟨by decide, lmmc_inv⟩

/-- A start in mode OTHER, idle and with a transfer active. -/
theorem witness_StartInModeOtherIsRefused :
    (State.reset.Unmarked ∧ State.reset.mode = .other ∧ State.reset.ce = false) ∧
    (let s : State := { lmmc with mode := .other }
     s.Unmarked ∧ s.mode = .other ∧ s.ce = true ∧ s.params.restartPolicy = .abort) ∧
    (Instr.cmdHmmc 3, (15 : BitVec 4)) ∈ instantCommands 3 ++ transferCommands 3 := by decide

theorem witness_RestartIsRefusedUnderThatPolicy :
    let s : State := { lmmc with params := { Config.defaultParams with restartPolicy := .refuse } }
    s.Unmarked ∧ s.ce = true ∧ s.params.restartPolicy = .refuse ∧
      (Instr.cmdSrch 0, (6 : BitVec 4)) ∈ instantCommands 0 ++ transferCommands 0 := by decide

/-- A start, idle and with a transfer active that it ends: for InstantStartsRunToCompletion,
LogicalMovesRunSequentially, HighSpeedMovesRunSequentially, ByteFillWritesTheRectangle and
MovesKeepBytesOutsideTheRectangle, with VRAM canonical and NX not 0. -/
theorem witness_Starts :
    (idle .l0 [] []).Starts .l0 ∧ lmmc.Starts .l3 ∧ Memory.wf lmmc.vram ∧ lmmc.regs.nx ≠ 0 ∧
    (Instr.cmdYmmm 0, (14 : BitVec 4)) ∈ instantCommands 0 :=
  ⟨starts_of (by decide) (by decide), starts_of (by decide) (by decide),
    by decide⟩

/-- Degenerate in NX alone and in NY alone. -/
theorem witness_DegenerateStartsCompleteAtOnce :
    (idle .l2 [(10, 4)] []).Starts .l2 ∧ (idle .l2 [(10, 4)] []).regs.nx = 0 ∧
    (idle .l2 [(8, 4)] []).Starts .l2 ∧ (idle .l2 [(8, 4)] []).regs.ny = 0 :=
  ⟨starts_of (by decide) (by decide), by decide, starts_of (by decide) (by decide),
    by decide⟩

/-- The widths 1 and PPB - 1. -/
theorem witness_NarrowHighSpeedStartsCompleteAtOnce :
    (idle .l1 [(8, 3), (10, 1)] []).Starts .l1 ∧
    ∀ n ∈ ([1, 3] : List Byte), 1 ≤ (idle .l1 [(8, n), (10, 1)] []).regs.nx.toNat ∧
      (idle .l1 [(8, n), (10, 1)] []).regs.nx.toNat < Layout.l1.pixelsPerByte ∧
      (idle .l1 [(8, n), (10, 1)] []).regs.ny ≠ 0 :=
  ⟨starts_of (by decide) (by decide), by decide⟩

/-- A transfer of the width of one byte: for LogicalTransferStartsAndWaits and
ByteTransferStartsAndWaits. -/
theorem witness_TransferStarts :
    (idle .l1 [(8, 4), (10, 1)] []).Starts .l1 ∧ (idle .l1 [(8, 4), (10, 1)] []).regs.nx ≠ 0 ∧
    (idle .l1 [(8, 4), (10, 1)] []).regs.ny ≠ 0 ∧
    Layout.l1.pixelsPerByte ≤ (idle .l1 [(8, 4), (10, 1)] []).regs.nx.toNat :=
  ⟨starts_of (by decide) (by decide), by decide⟩

/-- The first and the last code of each group, and a transparent source of colour 0. -/
theorem witness_SetPixelCompositesOnePixel :
    Memory.wf [(0, 0x77), (0x1FFFF, 0x01)] ∧ (∀ lo ∈ ([0, 4, 8, 12] : List (BitVec 4)), ¬ reservedCode lo) ∧
    8 ≤ (8 : BitVec 4).toNat ∧ (0x10 : Byte) &&& Layout.l0.pixelMask = 0 ∧
    ¬ samePixel .l0 0 0 1 0 ∧ samePixel .l0 0 0 256 1024 := by decide

theorem witness_ReservedCodeDrawsThePixel :
    Memory.wf [(0, 0x77)] ∧ (∀ lo ∈ ([5, 7, 13, 15] : List (BitVec 4)), reservedCode lo) ∧
    8 ≤ (13 : BitVec 4).toNat ∧ (0x10 : Byte) &&& Layout.l0.pixelMask = 0 ∧
    ¬ (8 ≤ (5 : BitVec 4).toNat ∧ (0x10 : Byte) &&& Layout.l0.pixelMask = 0) := by decide

theorem witness_OtherCallsLeaveVramAlone :
    mayStore (.cmdSrch 0) = false ∧ (after (.cmdSrch 0) (idle .l3 [] []) id).isSome = true ∧
    mayStore .rp = false ∧ (after .rp lmcm id).isSome = true := by decide

/-- A search that matches at its second pixel, and one with no match in its one column. -/
theorem witness_SearchRecordsTheFirstMatch :
    ((idle .l0 [(12, 5)] [(0, 0x05)]).Starts .l0 ∧
      (idle .l0 [(12, 5)] [(0, 0x05)]).getPixel .l0 0 0 = 0 ∧
      (idle .l0 [(12, 5)] [(0, 0x05)]).getPixel .l0 1 0 = 5) ∧
    ((idle .l0 [(12, 5), (13, 0x04)] []).Starts .l0 ∧
      (idle .l0 [(12, 5), (13, 0x04)] []).getPixel .l0 0 0 = 0) :=
  ⟨⟨starts_of (by decide) (by decide), by decide⟩,
    starts_of (by decide) (by decide), by decide⟩

theorem witness_OnlySearchAndRestoreChangeTheBorder :
    (∀ lo, Instr.cmdLmmv 0 ≠ .cmdSrch lo) ∧ Instr.cmdLmmv 0 ≠ .restore ∧
    (after (.cmdLmmv 0) lmmc id).isSome = true := by decide

theorem witness_LineDrawsTheBresenhamPoints :
    (idle .l3 [(8, 4), (10, 2), (12, 9)] []).Starts .l3 ∧
      Memory.wf (idle .l3 [(8, 4), (10, 2), (12, 9)] []).vram :=
  ⟨starts_of (by decide) (by decide), by decide⟩

/-- The widest rectangle that visits no pixel twice in layout 0. -/
theorem witness_FillCompositesTheRectangle :
    let s := idle .l0 [(9, 1), (10, 0xFF), (11, 3)] [(5, 0x77)]
    s.Starts .l0 ∧ Memory.wf s.vram ∧ ¬ reservedCode 4 ∧ s.regs.nx.toNat = Layout.l0.pageWidth.toNat ∧
      s.regs.ny.toNat ≤ Layout.l0.rows :=
  ⟨starts_of (by decide) (by decide), by decide⟩

/-- The corners of the source and the destination that the conditions of a copy are about. -/
def copyFits (l : Layout) (r : Regs) (width : Nat) : Bool :=
  (List.range r.nx.toNat).all (fun i =>
    0 ≤ (r.sx.toNat : Int) + i * xStep r ∧ (r.sx.toNat : Int) + i * xStep r < width ∧
    0 ≤ (r.dx.toNat : Int) + i * xStep r ∧ (r.dx.toNat : Int) + i * xStep r < width) &&
  (List.range r.ny.toNat).all (fun j =>
    0 ≤ (r.sy.toNat : Int) + j * yStep r ∧ (r.sy.toNat : Int) + j * yStep r < l.rows ∧
    0 ≤ (r.dy.toNat : Int) + j * yStep r ∧ (r.dy.toNat : Int) + j * yStep r < l.rows)

/-- V76 (a), V74 (b), and two rectangles side by side. In layout 3 pixels and byte columns coincide, so
the same states meet the hypotheses of ByteCopyIsMemmoveSafe. -/
theorem witness_CopyIsMemmoveSafe :
    let a := idle .l3 [(2, 2), (6, 3), (8, 1), (10, 3), (13, 0x08)] [(0, 1)]
    let b := idle .l3 [(0, 3), (4, 5), (8, 4), (10, 1), (13, 0x04)] [(0, 1)]
    let c := idle .l3 [(4, 4), (8, 4), (10, 1)] [(0, 1)]
    (a.Starts .l3 ∧ b.Starts .l3 ∧ c.Starts .l3) ∧ ¬ reservedCode 0 ∧ Memory.wf a.vram ∧
    copyFits .l3 a.regs 256 = true ∧ copyFits .l3 b.regs 256 = true ∧ copyFits .l3 c.regs 256 = true ∧
    0 < ((a.regs.sy.toNat : Int) - a.regs.dy.toNat) * yStep a.regs ∧
    (b.regs.sy.toNat = b.regs.dy.toNat ∧ 0 ≤ ((b.regs.sx.toNat : Int) - b.regs.dx.toNat) * xStep b.regs) ∧
    ∀ i i' : Fin 4, (c.regs.sx.toNat : Int) + i.val * xStep c.regs ≠ c.regs.dx.toNat + i'.val * xStep c.regs :=
  ⟨⟨starts_of (by decide) (by decide), starts_of (by decide) (by decide),
    starts_of (by decide) (by decide)⟩, by decide⟩

/-- A move whose source rows are read ahead, and one onto its own rows; NX is not 0. -/
theorem witness_ColumnCopyMovesRows :
    let a := idle .l3 [(2, 9), (6, 10), (8, 1), (10, 2), (13, 0x08)] []
    let b := idle .l3 [(2, 9), (6, 9), (8, 1), (10, 2)] []
    (a.Starts .l3 ∧ b.Starts .l3) ∧ (a.regs.nx ≠ 0 ∧ b.regs.nx ≠ 0) ∧
    copyFits .l3 a.regs 256 = true ∧ copyFits .l3 b.regs 256 = true ∧
    0 ≤ ((a.regs.sy.toNat : Int) - a.regs.dy.toNat) * yStep a.regs ∧
    0 ≤ ((b.regs.sy.toNat : Int) - b.regs.dy.toNat) * yStep b.regs :=
  ⟨⟨starts_of (by decide) (by decide), starts_of (by decide) (by decide)⟩, by decide⟩

/-- Inside a row, at the end of a row, and at the last step. -/
theorem witness_PixelReadDeliversAndMovesOn :
    (lmcm.Unmarked ∧ lmcm.ce = true ∧ lmcm.geom.map (fun g => (g.cm, g.anx, g.ny)) = some (.lmcm, 2, 2)) ∧
    ((next .rp lmcm).Unmarked ∧
      (next .rp lmcm).geom.map (fun g => (g.cm, g.anx, g.ny)) = some (.lmcm, 1, 2)) ∧
    (next .rp (next .rp (next .rp lmcm))).geom.map (fun g => (g.cm, g.anx, g.ny)) =
      some (.lmcm, 1, 1) := by decide

/-- The same three places of an LMMC and of an HMMC, for PixelWriteCompositesAndMovesOn and
ByteWriteOverwritesAndMovesOn. -/
theorem witness_TransferWrites :
    (lmmc.Unmarked ∧ lmmc.ce = true ∧ lmmc.geom.map (fun g => (g.cm, g.anx, g.ny)) = some (.lmmc, 4, 4)) ∧
    (hmmc.Unmarked ∧ hmmc.ce = true ∧ hmmc.geom.map (fun g => (g.cm, g.anx, g.ny)) = some (.hmmc, 2, 2)) ∧
    (next (.wrClr 1) hmmc).geom.map (fun g => (g.cm, g.anx, g.ny)) = some (.hmmc, 1, 2) ∧
    (next (.wrClr 3) (next (.wrClr 2) (next (.wrClr 1) hmmc))).geom.map
      (fun g => (g.cm, g.anx, g.ny)) = some (.hmmc, 1, 1) ∧
    (next (.cmdLmmc 0) (idle .l3 [(8, 1), (10, 2)] [])).geom.map (fun g => (g.cm, g.anx, g.ny)) =
      some (.lmmc, 1, 2) ∧
    (next (.cmdLmmc 0) (idle .l3 [(8, 1), (10, 1)] [])).geom.map (fun g => (g.cm, g.anx, g.ny)) =
      some (.lmmc, 1, 1) := by decide

theorem witness_PixelReadWhenInactiveRaisesTheFault :
    (State.reset.Unmarked ∧ State.reset.ce = false) ∧
    (lmmc.Unmarked ∧ lmmc.ce = true ∧ lmmc.geom.map (·.cm) = some .lmmc) := by decide

theorem witness_TransferWriteKeepsBytesOutside :
    Memory.wf lmmc.vram ∧ (after (.wrClr 7) lmmc id).isSome = true ∧
    lmmc.geom.map (fun g => (g.cm, decide (g.gl.address false g.adx g.dy ≠ 1))) = some (.lmmc, true) ∧
    Memory.wf hmmc.vram ∧ (after (.wrClr 7) hmmc id).isSome = true ∧
    hmmc.geom.map (fun g => (g.cm, decide (g.gl.byteAddress false g.adx g.dy ≠ 1))) = some (.hmmc, true) := by
  decide

/-- Sixteen writes end the transfer of Scenario C, fifteen do not. -/
theorem witness_TransferEndsWithItsLastCall :
    lmmc.Unmarked ∧ lmmc.Inv ∧
    lmmc.geom.map (fun g => (g.cm, decide (g.anx = g.nx), g.nx.val * g.ny.val)) = some (.lmmc, true, 16) ∧
    (List.replicate 15 (Instr.wrClr 1)).length < 16 ∧ (List.replicate 16 (Instr.wrClr 1)).length = 16 :=
  ⟨by decide, lmmc_inv, by decide⟩

/-- For InvariantGivesTheRanges too. -/
theorem witness_StepKeepsTheInvariant :
    lmmc.Inv ∧ (match step { lmmc with inbox := [.vramWrite 0 1] } with
      | .next t => some t.vram
      | .fault _ => none
      | .refused _ => none) = some [(0, 1)] :=
  ⟨lmmc_inv, by decide⟩

/-- Two states that differ in the blanking flag and the last cost alone. -/
theorem witness_CostInfluencesNothingElse :
    State.eraseCost { idle .l3 [] [] with blank := true, lastCost := 9 } =
      State.eraseCost (idle .l3 [] []) ∧
    ({ idle .l3 [] [] with blank := true, lastCost := 9 } : State) ≠ idle .l3 [] [] := by
  decide

theorem witness_CallsLeaveTheWorldAlone :
    (after .save lmmc id).isSome = true ∧ (after .rs lmmc id).isSome = true ∧ Instr.vnote ≠ .save := by
  decide

end Sys2Proof.Tests
end

section
/-! PROOFS. The invariant: at reset, through every step, and the ranges it gives. -/

namespace Sys2Proof.Machine

variable {s : State}

/-! ## Inversions of the host calls that choose by the state -/

/-- RP is a fault, or a step of the active LMCM (40_dispatch.md R114). -/
theorem readPixel_cases (s : State) :
    readPixel s = s.raiseFault .pixelReadWhenInactive ∨
    ∃ g, s.geom = some g ∧ g.cm = .lmcm ∧ readPixel s = lmcmStep g s := by
  unfold readPixel
  split
  · exact .inl rfl
  · rename_i g hg
    split
    · rename_i h; exact .inr ⟨g, hg, h.2, rfl⟩
    · exact .inl rfl

/-- A colour write does nothing more, or is a step of the active LMMC or HMMC (40_dispatch.md R102). -/
theorem pixelWrite_cases (v : Byte) (s : State) :
    pixelWrite v s = s ∨
    ∃ g, s.geom = some g ∧
      (g.cm = .lmmc ∧ pixelWrite v s = lmmcStep g v s ∨
       g.cm = .hmmc ∧ pixelWrite v s = hmmcStep g v s) := by
  unfold pixelWrite
  split
  · exact .inl rfl
  · rename_i g hg
    split
    · rename_i h; exact .inr ⟨g, hg, .inl ⟨h.2, rfl⟩⟩
    · split
      · rename_i h; exact .inr ⟨g, hg, .inr ⟨h.2, rfl⟩⟩
      · exact .inl rfl

/-- RESTORE refuses, or loads the record of the last SAVE (40_dispatch.md R119). -/
theorem restoreSaved_cases (s : State) :
    restoreSaved s = s.refuse .badRecord ∨
    ∃ r, s.saved = some r ∧ restoreSaved s = s.load r := by
  unfold restoreSaved
  split
  · rename_i r hr
    split
    · exact .inr ⟨r, hr, rfl⟩
    · exact .inl rfl
  · exact .inl rfl

/-! ## The invariant: engines between two calls -/

theorem engineOk_idle {x : Int} (hx : -1 ≤ x ∧ x ≤ 512) : EngineOk false false x none :=
  ⟨rfl, rfl, hx, by simp⟩

theorem engineOk_transfer {x : Int} {g : Geom} (hx : -1 ≤ x ∧ x ≤ 512)
    (hc : g.cm.isTransfer = true) (hp : g.PositionOk) : EngineOk true true x (some g) :=
  ⟨rfl, hc.symm, hx, by rintro _ ⟨⟩; exact ⟨hc, hp⟩⟩

theorem Geom.PositionOk.withOpc {g : Geom} (h : g.PositionOk) (c : Nat) :
    Geom.PositionOk { g with opc := c } :=
  ⟨h.width, h.pending, h.sourceStart, h.destStart, h.sourceColumn, h.destColumn, h.sourceRow,
    h.destRow⟩

/-! ## The invariant: the shared operations keep it -/

theorem State.Inv.writeReg (h : s.Inv) (i : Fin 15) (v : Byte) : (s.writeReg i v).Inv :=
  ⟨h.engine, h.memory, h.record⟩

theorem State.Inv.raiseFault (h : s.Inv) (r : Fault) : (s.raiseFault r).Inv :=
  ⟨h.engine, h.memory, h.record⟩

theorem State.Inv.refuse (h : s.Inv) (r : RefuseReason) : (s.refuse r).Inv :=
  ⟨h.engine, h.memory, h.record⟩

theorem State.Inv.reply (h : s.Inv) (b : Byte) : (s.reply b).Inv :=
  ⟨h.engine, h.memory, h.record⟩

theorem State.Inv.setPixel (h : s.Inv) (l : Layout) (x y : Int) (c : Byte) (lo : BitVec 4) :
    (s.setPixel l x y c lo).Inv := by
  have hm := setPixel_wf h.memory l x y c lo
  rw [setPixel_eq] at hm ⊢
  exact ⟨h.engine, hm, h.record⟩

theorem State.Inv.writeByteAt (h : s.Inv) (l : Layout) (bx y : Int) (v : Byte) :
    (s.writeByteAt l bx y v).Inv :=
  ⟨h.engine, writeByteAt_wf h.memory l bx y v, h.record⟩

/-- Charging a cost changes the counter of the geometry alone. -/
theorem State.Inv.cost (h : s.Inv) (k : CostClass) : (s.cost k).Inv := by
  refine ⟨?_, h.memory, h.record⟩
  obtain ⟨hactive, hready, hborder, htransfer⟩ := h.engine
  show EngineOk s.tr s.ce s.borderX (s.geom.map _)
  cases hg : s.geom with
  | none => rw [hactive, hready, hg]; exact engineOk_idle hborder
  | some g =>
    obtain ⟨hcm, hpos⟩ := htransfer g hg
    rw [hactive, hready, hg, show transferActive (some g) = true from hcm]
    exact engineOk_transfer hborder hcm (hpos.withOpc _)

/-- A transfer step keeps the invariant where its move keeps the position of an unfinished transfer. -/
theorem State.Inv.advance (h : s.Inv) {move : Geom → Geom} (hcm : ∀ g, (move g).cm = g.cm)
    (hmove : ∀ g, s.geom = some g → g.PositionOk → g.endsOperation = false → (move g).PositionOk) :
    (s.advance move).Inv := by
  cases hg : s.geom with
  | none => rwa [show s.advance move = s by simp [State.advance, hg]]
  | some g =>
    obtain ⟨hactive, hready, hborder, htransfer⟩ := h.engine
    obtain ⟨htr, hpos⟩ := htransfer g hg
    cases he : g.endsOperation with
    | true => rw [advance_last hg he]; exact ⟨engineOk_idle hborder, h.memory, h.record⟩
    | false =>
      rw [advance_in_row hg he]
      refine ⟨?_, h.memory, h.record⟩
      rw [hactive, hready, hg, show transferActive (some g) = true from htr]
      exact engineOk_transfer hborder ((hcm g).symm ▸ htr) (hmove g hg hpos he)

/-! ## The invariant: transfer steps -/

@[simp] theorem advanceSource_cm (g : Geom) : g.advanceSource.cm = g.cm := by
  unfold Geom.advanceSource; split <;> rfl

@[simp] theorem advanceDest_cm (g : Geom) : g.advanceDest.cm = g.cm := by
  unfold Geom.advanceDest; split <;> rfl

/-- Charging a cost keeps the opcode of the active operation. -/
theorem cost_geom_cm {k : CostClass} {g g' : Geom} (hg : s.geom = some g)
    (hg' : (s.cost k).geom = some g') : g'.cm = g.cm := by
  rw [cost_geom, hg] at hg'
  cases hg'
  rfl

theorem State.Inv.lmcmStep {g : Geom} (h : s.Inv) (hg : s.geom = some g) (hcm : g.cm = .lmcm) :
    (lmcmStep g s).Inv :=
  ((h.cost .lmcm).reply _).advance advanceSource_cm fun _ hg' hpos he =>
    advanceSource_positionOk hpos ((cost_geom_cm hg hg').trans hcm) he

theorem State.Inv.lmmcStep {g : Geom} (h : s.Inv) (hg : s.geom = some g) (hcm : g.cm = .lmmc)
    (v : Byte) : (lmmcStep g v s).Inv := by
  refine ((h.cost .lmmc).setPixel g.gl g.adx g.dy v g.lo).advance advanceDest_cm
    fun g' hg' hpos he => advanceDest_positionOk hpos ?_ he
  rw [setPixel_geom] at hg'
  simp [cost_geom_cm hg hg', hcm]

theorem State.Inv.hmmcStep {g : Geom} (h : s.Inv) (hg : s.geom = some g) (hcm : g.cm = .hmmc)
    (v : Byte) : (hmmcStep g v s).Inv :=
  ((h.cost .hmmc).writeByteAt g.gl g.adx g.dy v).advance advanceDest_cm
    fun _ hg' hpos he => advanceDest_positionOk hpos (by simp [cost_geom_cm hg hg', hcm]) he

theorem State.Inv.readPixel (h : s.Inv) : (readPixel s).Inv := by
  obtain he | ⟨g, hg, hcm, he⟩ := readPixel_cases s <;> rw [he]
  · exact h.raiseFault _
  · exact h.lmcmStep hg hcm

theorem State.Inv.pixelWrite (h : s.Inv) (v : Byte) : (pixelWrite v s).Inv := by
  obtain he | ⟨g, hg, ⟨hcm, he⟩ | ⟨hcm, he⟩⟩ := pixelWrite_cases v s <;> rw [he]
  · exact h
  · exact h.lmmcStep hg hcm v
  · exact h.hmmcStep hg hcm v

/-! ## The invariant: SAVE and RESTORE -/

@[simp] theorem statusTr_statusByte (tr bd ce : Bool) : statusTr (statusByte tr bd ce) = tr := by
  revert tr bd ce; decide

@[simp] theorem statusBd_statusByte (tr bd ce : Bool) : statusBd (statusByte tr bd ce) = bd := by
  revert tr bd ce; decide

@[simp] theorem statusCe_statusByte (tr bd ce : Bool) : statusCe (statusByte tr bd ce) = ce := by
  revert tr bd ce; decide

theorem State.Inv.save (h : s.Inv) : State.Inv { s with saved := some s.record } := by
  refine ⟨h.engine, h.memory, ?_⟩
  rintro _ ⟨⟩
  exact ⟨rfl, by simpa [State.record, State.status] using h.engine⟩

theorem State.Inv.restoreSaved (h : s.Inv) : (restoreSaved s).Inv := by
  obtain he | ⟨r, hr, he⟩ := restoreSaved_cases s <;> rw [he]
  · exact h.refuse _
  · exact ⟨(h.record r hr).2, h.memory, h.record⟩

/-! ## The invariant: starts -/

/-- Ending the active operation leaves no geometry and TR = 0 (40_dispatch.md R112). -/
theorem State.Inv.ended (h : s.Inv) (op : Opcode) (lo : BitVec 4) : (s.ended op lo).Inv := by
  refine ⟨?_, h.memory, h.record⟩
  obtain ⟨hactive, hready, hborder, -⟩ := h.engine
  have hidle : (s.ended op lo).tr = false ∧ (s.ended op lo).geom = none := by
    cases hg : s.geom <;> simp_all [State.ended, transferActive]
  rw [hidle.1, hidle.2]
  exact engineOk_idle hborder

/-- A completed operation keeps the invariant if what it wrote and recorded is in order. -/
theorem State.Inv.completed (h : s.Inv) (u : State) (hu : u.saved = s.saved) {v : Memory}
    (hv : Memory.wf v) {d : Nat} {b : Bool} {x : Int} (hx : -1 ≤ x ∧ x ≤ 512) {c : Nat} :
    (u.completed v d b x c).Inv :=
  ⟨engineOk_idle hx, hv, fun r hr => h.record r (hu ▸ hr)⟩

theorem State.Inv.startNoop (h : s.Inv) (op : Opcode) (hop : op.isNoop = true) (lo : BitVec 4)
    (handler : Geom → State → State) : (s.start op lo handler).Inv := by
  rw [start_noop hop]
  exact ⟨(h.ended op lo).engine, h.memory, h.record⟩

/-- A start keeps the invariant if its handler does, in the states in which it runs (40_dispatch.md
R104). -/
theorem State.Inv.start (h : s.Inv) {op : Opcode} (hop : op.isNoop = false) {lo : BitVec 4}
    {handler : Geom → State → State}
    (hrun : ∀ l, (op.isRectangle = true → s.regs.nx ≠ 0 ∧ s.regs.ny ≠ 0) →
      (handler (snapshot op lo l s.regs) (s.running op lo l)).Inv) :
    (s.start op lo handler).Inv := by
  obtain he | he | ⟨l, -, he | ⟨hd, he⟩⟩ := start_cases (s := s) (lo := lo) (handler := handler) hop
    <;> rw [he]
  · exact (h.writeReg _ _).refuse _
  · exact (h.ended op lo).refuse _
  · exact h.completed (s.running op lo l) rfl h.memory h.engine.border
  · exact hrun l hd

/-- The starts of LMCM and LMMC wait at the corner of the rectangle (43_logical_moves.md R165, R168). -/
theorem State.Inv.startTransfer (h : s.Inv) {op : Opcode} (hop : op = .lmcm ∨ op = .lmmc)
    (lo : BitVec 4) : (s.start op lo fun _ s => s.readyForTransfer).Inv := by
  have hclass : op.isNoop = false ∧ op.isTransfer = true ∧ op.isRectangle = true := by
    obtain rfl | rfl := hop <;> decide
  obtain ⟨hnoop, htransfer, hrectangle⟩ := hclass
  refine h.start hnoop fun l hd => ?_
  obtain ⟨hx, hy⟩ := hd hrectangle
  exact ⟨engineOk_transfer h.engine.border htransfer (snapshot_positionOk op lo l hx hy), h.memory,
    h.record⟩

/-- The start of HMMC finishes at once or waits at the corner, in byte units (44_high_speed_moves.md
R187, R181). -/
theorem State.Inv.startHmmc (h : s.Inv) (lo : BitVec 4) : (s.start .hmmc lo hmmcStart).Inv := by
  refine h.start rfl fun l hd => ?_
  unfold hmmcStart
  dsimp only
  split
  · exact h.completed (s.running .hmmc lo l) rfl h.memory h.engine.border
  · rename_i hbytes
    exact ⟨engineOk_transfer h.engine.border rfl (inByteUnits_positionOk (hd rfl).2 hbytes), h.memory,
      h.record⟩

/-! ## What the handlers of the INSTANT opcodes leave -/

/-- The handler draws and finishes; BD and border X stay. -/
def Completes (handler : Geom → State → State) : Prop :=
  ∀ g s, ∃ v d c, handler g s = s.completed v d s.bd s.borderX c

theorem Completes.start_inv {handler : Geom → State → State} (hc : Completes handler)
    (hw : ∀ {s : State}, Memory.wf s.vram → ∀ g, Memory.wf (handler g s).vram) (h : s.Inv)
    (op : Opcode) (hop : op.isNoop = false) (lo : BitVec 4) : (s.start op lo handler).Inv := by
  refine h.start hop fun l _ => ?_
  have hv := hw (s := s.running op lo l) h.memory (snapshot op lo l s.regs)
  obtain ⟨v, d, c, he⟩ := hc (snapshot op lo l s.regs) (s.running op lo l)
  rw [he] at hv ⊢
  exact h.completed (s.running op lo l) rfl hv h.engine.border

/-! ## Border X after a search (10_state.md R28) -/

/-- The column is one of the row's or next to the row. -/
def Geom.AtRow (g : Geom) (x : Int) : Prop := -1 ≤ x ∧ x ≤ g.mx.toNat

theorem searchMiss_border {g : Geom} {x : Int} (hx : g.AtRow x) (hp : g.AtRow (x - g.tx.toInt)) :
    g.AtRow (searchMiss g x s).borderX := by
  show g.AtRow (match s.params.srchEdgeX with
    | .lastInRange => x - g.tx.toInt
    | .firstOutOfRange => x)
  split
  · exact hp
  · exact hx

/-- A scan from a column at the row, reached from one at the row, records a column at the row. -/
theorem searchFrom_border {g : Geom} {eq : Bool} {n : Nat} {x : Int} (hx : g.AtRow x)
    (hp : g.AtRow (x - g.tx.toInt)) : g.AtRow (searchFrom g eq n x s).borderX := by
  induction n generalizing x s with
  | zero => exact searchMiss_border hx hp
  | succ n ih =>
    simp only [searchFrom]
    split
    · split
      · exact hx
      · refine ih ?_ (by rwa [Int.add_sub_cancel])
        unfold Geom.AtRow
        obtain ⟨-, ht⟩ | ⟨-, ht⟩ := toInt_cases g.tx <;> omega
    · exact searchMiss_border hx hp

theorem search_border (g : Geom) (s : State) :
    -1 ≤ (search g s).borderX ∧ (search g s).borderX ≤ 512 := by
  have hmx : 0 < g.mx.toNat ∧ g.mx.toNat ≤ 512 := by cases g.mx <;> simp [PageWidth.toNat]
  have hlow := Int.emod_nonneg g.sx (b := g.mx.toNat) (by omega)
  have hhigh := Int.emod_lt_of_pos g.sx (b := g.mx.toNat) (by omega)
  have hborder : g.AtRow (search g s).borderX := by
    apply searchFrom_border
    · unfold Geom.AtRow; omega
    · unfold Geom.AtRow
      obtain ⟨-, ht⟩ | ⟨-, ht⟩ := toInt_cases g.tx <;> omega
  unfold Geom.AtRow at hborder
  omega

theorem State.Inv.startSearch (h : s.Inv) (lo : BitVec 4) : (s.start .srch lo search).Inv := by
  refine h.start rfl fun l _ => ?_
  have hx := search_border (snapshot .srch lo l s.regs) (s.running .srch lo l)
  obtain ⟨b, x, c, he⟩ := search_completed (snapshot .srch lo l s.regs) (s.running .srch lo l)
  rw [he] at hx ⊢
  exact h.completed (s.running .srch lo l) rfl h.memory hx

/-! ## The invariant: every host call and every step -/

theorem State.Inv.effect (h : s.Inv) : ∀ i, (effect i s).Inv
  | .wrSxl _ | .wrSxh _ | .wrSyl _ | .wrSyh _ | .wrDxl _ | .wrDxh _ | .wrDyl _ | .wrDyh _
  | .wrNxl _ | .wrNxh _ | .wrNyl _ | .wrNyh _ | .wrArg _ => h.writeReg _ _
  | .wrClr v => (h.writeReg 12 v).pixelWrite v
  | .cmdStop lo => h.startNoop .stop rfl lo noHandler
  | .cmdUnknown1 lo => h.startNoop .unknown1 rfl lo noHandler
  | .cmdUnknown2 lo => h.startNoop .unknown2 rfl lo noHandler
  | .cmdUnknown3 lo => h.startNoop .unknown3 rfl lo noHandler
  | .cmdUnknown4 lo => h.startNoop .unknown4 rfl lo noHandler
  | .cmdUnknown5 lo => h.startNoop .unknown5 rfl lo noHandler
  | .cmdSrch lo => h.startSearch lo
  | .cmdLine lo => Completes.start_inv line_completed line_wf h .line rfl lo
  | .cmdLmmv lo => Completes.start_inv logicalFill_completed logicalFill_wf h .lmmv rfl lo
  | .cmdLmmm lo => Completes.start_inv logicalCopy_completed logicalCopy_wf h .lmmm rfl lo
  | .cmdHmmv lo => Completes.start_inv byteFill_completed byteFill_wf h .hmmv rfl lo
  | .cmdHmmm lo => Completes.start_inv byteCopy_completed byteCopy_wf h .hmmm rfl lo
  | .cmdYmmm lo => Completes.start_inv columnCopy_completed columnCopy_wf h .ymmm rfl lo
  | .cmdLmcm lo => h.startTransfer (.inl rfl) lo
  | .cmdLmmc lo => h.startTransfer (.inr rfl) lo
  | .cmdHmmc lo => h.startHmmc lo
  | .wr15 _ => h.raiseFault _
  | .rs => h.reply _
  | .rp => h.readPixel
  | .save => h.save
  | .restore => h.restoreSaved
  | .mode _ | .vnote | .reservedKind7 | .reservedKinds8F => ⟨h.engine, h.memory, h.record⟩

/-- Settles O56, by the four things a step can do. -/
theorem stepKeepsTheInvariant : Obligations.StepKeepsTheInvariant := by
  unfold Obligations.StepKeepsTheInvariant
  intro s t h hstep
  obtain ⟨-, rfl⟩ | ⟨c, rest, -, hexec⟩ | ⟨a, v, rest, -, rfl⟩ | ⟨rest, -, rfl⟩ := step_cases hstep
  · exact h
  · obtain ⟨-, -, rfl⟩ := exec_eq_next.1 hexec
    have hcall : (s.takeCall c rest).Inv := ⟨h.engine, h.memory, h.record⟩
    exact hcall.effect _
  · exact ⟨h.engine, Memory.write_wf h.memory a v, h.record⟩
  · exact ⟨engineOk_idle (x := 0) (by decide), h.memory, h.record⟩

/-! ## Reset (10_state.md R37) -/

/-- Settles O55: at reset no operation is active, VRAM is empty and no record is held. -/
theorem invariantAtReset : Obligations.InvariantAtReset :=
  ⟨engineOk_idle (x := 0) (by decide), Memory.wf_nil, by rintro _ ⟨⟩⟩

/-- Settles O8: each field of `State.reset`, and a replicated byte in every register. -/
theorem resetValuesAreTheSpecs : Obligations.ResetValuesAreTheSpecs := by
  refine ⟨fun i => ?_, rfl, rfl, rfl, rfl, rfl, rfl, rfl, rfl, rfl⟩
  exact Vector.getElem_replicate i.isLt

/-! ## The ranges of a transfer's position (10_state.md R32) -/

/-- A column within a row of at most 511 pixels from a 9-bit start. -/
theorem column_range (d : Dir) {x : Int} {nx anx : Nat} (hx : 0 ≤ x ∧ x ≤ 511) (hanx : anx ≤ nx)
    (hnx : nx < 512) :
    -511 ≤ x + (nx - anx : Int) * d.toInt ∧ x + (nx - anx : Int) * d.toInt ≤ 1022 := by
  obtain ⟨-, ht⟩ | ⟨-, ht⟩ := toInt_cases d <;> rw [ht] <;> omega

theorem RowOk.range {d : Dir} {y : Int} {n : Nat} (h : RowOk d y n) : -1023 ≤ y ∧ y ≤ 2046 := by
  cases d <;> simp only [RowOk] at h <;> omega

theorem Geom.PositionOk.range {g : Geom} (h : g.PositionOk) :
    (-511 ≤ g.asx ∧ g.asx ≤ 1022) ∧ (-511 ≤ g.adx ∧ g.adx ≤ 1022) ∧
      (-1023 ≤ g.sy ∧ g.sy ≤ 2046) ∧ (-1023 ≤ g.dy ∧ g.dy ≤ 2046) := by
  obtain ⟨-, ⟨-, hanx, -⟩, hsx, hdx, hasx, hadx, hsy, hdy⟩ := h
  have hsource := column_range g.tx hsx hanx g.nx.isLt
  have hdest := column_range g.tx hdx hanx g.nx.isLt
  by_cases hcm : g.cm = .lmcm
  · simp only [hcm, if_true] at hasx hadx hsy hdy
    have hrow := hsy.range
    omega
  · simp only [hcm, if_false] at hasx hadx hsy hdy
    have hrow := hdy.range
    omega

theorem isTransfer_iff {op : Opcode} :
    op.isTransfer = true ↔ op = .lmcm ∨ op = .lmmc ∨ op = .hmmc := by
  cases op <;> decide

/-- Settles O57: a transfer's position lies in its rectangle, which lies in the ranges. -/
theorem invariantGivesTheRanges : Obligations.InvariantGivesTheRanges := by
  unfold Obligations.InvariantGivesTheRanges
  rintro s ⟨⟨hactive, hready, hborder, htransfer⟩, -, -⟩
  refine ⟨?_, fun htr => ?_, hborder, fun g hg => ?_⟩
  · rw [hactive, Option.isSome_iff_exists]
  · cases hg : s.geom with
    | none => rw [hready, hg] at htr; cases htr
    | some g => exact ⟨g, rfl, isTransfer_iff.1 (htransfer g hg).1⟩
  · obtain ⟨hasx, hadx, hsy, hdy⟩ := (htransfer g hg).2.range
    exact ⟨hasx.1, hasx.2, hadx.1, hadx.2, hsy.1, hsy.2, hdy.1, hdy.2⟩

end Sys2Proof.Machine
end

section
/-! PROOFS. BD and border X change only by SRCH and RESTORE. -/

namespace Sys2Proof.Machine

variable {s : State}

/-! ## BD and border X (10_state.md R27) -/

/-- BD and border X of `t` are those of `s`. -/
def SameBorder (s t : State) : Prop := t.bd = s.bd ∧ t.borderX = s.borderX

theorem Completes.sameBorder {handler : Geom → State → State} (h : Completes handler) (g : Geom)
    (s : State) : SameBorder s (handler g s) := by
  obtain ⟨v, d, c, he⟩ := h g s
  rw [he]
  exact ⟨rfl, rfl⟩

theorem advance_sameBorder (s : State) (move : Geom → Geom) : SameBorder s (s.advance move) := by
  rw [advance_eq]
  exact ⟨rfl, rfl⟩

theorem readPixel_sameBorder (s : State) : SameBorder s (readPixel s) := by
  obtain he | ⟨g, -, -, he⟩ := readPixel_cases s <;> rw [he]
  · exact ⟨rfl, rfl⟩
  · exact advance_sameBorder ((s.cost .lmcm).reply _) _

theorem pixelWrite_sameBorder (v : Byte) (s : State) : SameBorder s (pixelWrite v s) := by
  obtain he | ⟨g, -, ⟨-, he⟩ | ⟨-, he⟩⟩ := pixelWrite_cases v s <;> rw [he]
  · exact ⟨rfl, rfl⟩
  · simpa [SameBorder, lmmcStep] using
      advance_sameBorder ((s.cost .lmmc).setPixel g.gl g.adx g.dy v g.lo) _
  · exact advance_sameBorder ((s.cost .hmmc).writeByteAt g.gl g.adx g.dy v) _

theorem hmmcStart_sameBorder (g : Geom) (s : State) : SameBorder s (hmmcStart g s) := by
  unfold hmmcStart
  dsimp only
  split <;> exact ⟨rfl, rfl⟩

/-- A start changes BD and border X only by its handler. -/
theorem start_sameBorder {op : Opcode} {lo : BitVec 4} {handler : Geom → State → State}
    (h : ∀ g t, SameBorder t (handler g t)) : SameBorder s (s.start op lo handler) := by
  cases hop : op.isNoop with
  | true => rw [start_noop hop]; exact ⟨rfl, rfl⟩
  | false =>
    obtain he | he | ⟨l, -, he | ⟨-, he⟩⟩ := start_cases (s := s) (lo := lo) (handler := handler) hop
      <;> rw [he]
    · exact ⟨rfl, rfl⟩
    · exact ⟨rfl, rfl⟩
    · exact ⟨rfl, rfl⟩
    · exact h (snapshot op lo l s.regs) (s.running op lo l)

theorem effect_sameBorder (s : State) :
    ∀ i, (∀ lo, i ≠ .cmdSrch lo) → i ≠ .restore → SameBorder s (effect i s)
  | .wrSxl _, _, _ | .wrSxh _, _, _ | .wrSyl _, _, _ | .wrSyh _, _, _ | .wrDxl _, _, _
  | .wrDxh _, _, _ | .wrDyl _, _, _ | .wrDyh _, _, _ | .wrNxl _, _, _ | .wrNxh _, _, _
  | .wrNyl _, _, _ | .wrNyh _, _, _ | .wrArg _, _, _ | .wr15 _, _, _ | .rs, _, _ | .mode _, _, _
  | .vnote, _, _ | .save, _, _ | .reservedKind7, _, _ | .reservedKinds8F, _, _ => ⟨rfl, rfl⟩
  | .wrClr v, _, _ => pixelWrite_sameBorder v (s.writeReg 12 v)
  | .rp, _, _ => readPixel_sameBorder s
  | .cmdStop _, _, _ | .cmdUnknown1 _, _, _ | .cmdUnknown2 _, _, _ | .cmdUnknown3 _, _, _
  | .cmdUnknown4 _, _, _ | .cmdUnknown5 _, _, _ => start_sameBorder fun _ _ => ⟨rfl, rfl⟩
  | .cmdLmcm _, _, _ | .cmdLmmc _, _, _ => start_sameBorder fun _ _ => ⟨rfl, rfl⟩
  | .cmdHmmc _, _, _ => start_sameBorder hmmcStart_sameBorder
  | .cmdLine _, _, _ => start_sameBorder (Completes.sameBorder line_completed)
  | .cmdLmmv _, _, _ => start_sameBorder (Completes.sameBorder logicalFill_completed)
  | .cmdLmmm _, _, _ => start_sameBorder (Completes.sameBorder logicalCopy_completed)
  | .cmdHmmv _, _, _ => start_sameBorder (Completes.sameBorder byteFill_completed)
  | .cmdHmmm _, _, _ => start_sameBorder (Completes.sameBorder byteCopy_completed)
  | .cmdYmmm _, _, _ => start_sameBorder (Completes.sameBorder columnCopy_completed)
  | .cmdSrch lo, hsearch, _ => absurd rfl (hsearch lo)
  | .restore, _, hrestore => absurd rfl hrestore

/-- Settles O39, call by call. -/
theorem onlySearchAndRestoreChangeTheBorder : Obligations.OnlySearchAndRestoreChangeTheBorder := by
  unfold Obligations.OnlySearchAndRestoreChangeTheBorder
  intro i s t hsearch hrestore hexec
  obtain ⟨-, -, rfl⟩ := exec_eq_next.1 hexec
  exact effect_sameBorder s i hsearch hrestore

end Sys2Proof.Machine
end

section
/-! PROOFS. Registers change only by their writes. -/

namespace Sys2Proof.Machine

variable {s : State}

/-! ## The register a host call writes (10_state.md R21, 40_dispatch.md R100) -/

/-- The register an instruction other than RESTORE writes, and the byte it puts there. -/
def registerWritten : Instr → Option (Fin 15 × Byte)
  | .wrSxl v => some (0, v)
  | .wrSxh v => some (1, v)
  | .wrSyl v => some (2, v)
  | .wrSyh v => some (3, v)
  | .wrDxl v => some (4, v)
  | .wrDxh v => some (5, v)
  | .wrDyl v => some (6, v)
  | .wrDyh v => some (7, v)
  | .wrNxl v => some (8, v)
  | .wrNxh v => some (9, v)
  | .wrNyl v => some (10, v)
  | .wrNyh v => some (11, v)
  | .wrClr v => some (12, v)
  | .wrArg v => some (13, v)
  | .cmdStop lo => some (14, commandByte .stop lo)
  | .cmdUnknown1 lo => some (14, commandByte .unknown1 lo)
  | .cmdUnknown2 lo => some (14, commandByte .unknown2 lo)
  | .cmdUnknown3 lo => some (14, commandByte .unknown3 lo)
  | .cmdUnknown4 lo => some (14, commandByte .unknown4 lo)
  | .cmdUnknown5 lo => some (14, commandByte .unknown5 lo)
  | .cmdSrch lo => some (14, commandByte .srch lo)
  | .cmdLine lo => some (14, commandByte .line lo)
  | .cmdLmmv lo => some (14, commandByte .lmmv lo)
  | .cmdLmmm lo => some (14, commandByte .lmmm lo)
  | .cmdLmcm lo => some (14, commandByte .lmcm lo)
  | .cmdLmmc lo => some (14, commandByte .lmmc lo)
  | .cmdHmmv lo => some (14, commandByte .hmmv lo)
  | .cmdHmmm lo => some (14, commandByte .hmmm lo)
  | .cmdYmmm lo => some (14, commandByte .ymmm lo)
  | .cmdHmmc lo => some (14, commandByte .hmmc lo)
  | .wr15 _ | .rs | .rp | .mode _ | .vnote | .save | .restore | .reservedKind7
  | .reservedKinds8F => none

/-- The register file after a write, if there is one. -/
def Regs.afterWrite (r : Regs) : Option (Fin 15 × Byte) → Regs
  | some (i, v) => r.set i v
  | none => r

theorem Completes.regs {handler : Geom → State → State} (h : Completes handler) (g : Geom)
    (s : State) : (handler g s).regs = s.regs := by
  obtain ⟨v, d, c, he⟩ := h g s
  rw [he]
  rfl

theorem search_regs (g : Geom) (s : State) : (search g s).regs = s.regs := by
  obtain ⟨b, x, c, he⟩ := search_completed g s
  rw [he]
  rfl

theorem hmmcStart_regs (g : Geom) (s : State) : (hmmcStart g s).regs = s.regs := by
  unfold hmmcStart
  dsimp only
  split <;> rfl

@[simp] theorem advance_regs {move : Geom → Geom} : (s.advance move).regs = s.regs := by
  rw [advance_eq]

theorem readPixel_regs (s : State) : (readPixel s).regs = s.regs := by
  obtain he | ⟨g, -, -, he⟩ := readPixel_cases s <;> simp [he, lmcmStep]

theorem pixelWrite_regs (v : Byte) (s : State) : (pixelWrite v s).regs = s.regs := by
  obtain he | ⟨g, -, ⟨-, he⟩ | ⟨-, he⟩⟩ := pixelWrite_cases v s <;>
    simp [he, lmmcStep, hmmcStep]

/-- A start writes the command register, whatever becomes of it (40_dispatch.md R100). -/
theorem start_regs {op : Opcode} {lo : BitVec 4} {handler : Geom → State → State}
    (h : ∀ g t, (handler g t).regs = t.regs) :
    (s.start op lo handler).regs = s.regs.set 14 (commandByte op lo) := by
  cases hop : op.isNoop with
  | true => rw [start_noop hop]
  | false =>
    obtain he | he | ⟨l, -, he | ⟨-, he⟩⟩ := start_cases (s := s) (lo := lo) (handler := handler) hop
      <;> rw [he]
    · rfl
    · rfl
    · rfl
    · exact h (snapshot op lo l s.regs) (s.running op lo l)

/-- Every host call but RESTORE writes its register and no other. -/
theorem effect_regs (s : State) :
    ∀ i, i ≠ .restore → (effect i s).regs = s.regs.afterWrite (registerWritten i)
  | .wrSxl _, _ | .wrSxh _, _ | .wrSyl _, _ | .wrSyh _, _ | .wrDxl _, _ | .wrDxh _, _
  | .wrDyl _, _ | .wrDyh _, _ | .wrNxl _, _ | .wrNxh _, _ | .wrNyl _, _ | .wrNyh _, _
  | .wrArg _, _ | .wr15 _, _ | .rs, _ | .mode _, _ | .vnote, _ | .save, _ | .reservedKind7, _
  | .reservedKinds8F, _ => rfl
  | .wrClr v, _ => pixelWrite_regs v (s.writeReg 12 v)
  | .rp, _ => readPixel_regs s
  | .cmdStop _, _ | .cmdUnknown1 _, _ | .cmdUnknown2 _, _ | .cmdUnknown3 _, _
  | .cmdUnknown4 _, _ | .cmdUnknown5 _, _ => start_regs fun _ _ => rfl
  | .cmdLmcm _, _ | .cmdLmmc _, _ => start_regs fun _ _ => rfl
  | .cmdHmmc _, _ => start_regs hmmcStart_regs
  | .cmdSrch _, _ => start_regs search_regs
  | .cmdLine _, _ => start_regs (Completes.regs line_completed)
  | .cmdLmmv _, _ => start_regs (Completes.regs logicalFill_completed)
  | .cmdLmmm _, _ => start_regs (Completes.regs logicalCopy_completed)
  | .cmdHmmv _, _ => start_regs (Completes.regs byteFill_completed)
  | .cmdHmmm _, _ => start_regs (Completes.regs byteCopy_completed)
  | .cmdYmmm _, _ => start_regs (Completes.regs columnCopy_completed)
  | .restore, hrestore => absurd rfl hrestore

/-! ## The register a word writes (30_encoding.md R80, R90) -/

theorem registerWritten_decodeCommand (cm lo : BitVec 4) :
    registerWritten (decodeCommand cm lo) = some (14, cm ++ lo) := by
  revert cm lo; decide

theorem nibbles_append (v : Byte) : v.extractLsb' 4 4 ++ v.extractLsb' 0 4 = v := by
  apply BitVec.eq_of_toNat_eq
  rw [toNat_append_eq, BitVec.extractLsb'_toNat, BitVec.extractLsb'_toNat, Nat.shiftRight_eq_div_pow]
  have := v.isLt
  omega

/-- A register index decodes to a write of that register. -/
theorem registerWritten_decodeWrite {idx : BitVec 4} (h : idx.toNat < 15) (v : Byte) :
    registerWritten (decodeWrite idx v) = some (⟨idx.toNat, h⟩, v) := by
  unfold decodeWrite
  generalize idx.toNat = n at h
  obtain hlow | rfl : n < 14 ∨ n = 14 := by omega
  · interval_cases n <;> rfl
  · show registerWritten (decodeCommand _ _) = _
    rw [registerWritten_decodeCommand, nibbles_append]
    rfl

/-- Index 15 names no register (60_exceptions.md R205). -/
theorem decodeWrite_fifteen {idx : BitVec 4} (h : idx.toNat = 15) (v : Byte) :
    decodeWrite idx v = .wr15 v := by
  unfold decodeWrite
  rw [h]
  rfl

theorem word_kind (w : HostWord) : (w.extractLsb' 12 4).toNat = w.toNat / 4096 := by
  rw [BitVec.extractLsb'_toNat, Nat.shiftRight_eq_div_pow]
  have := w.isLt
  omega

theorem word_idx (w : HostWord) : (w.extractLsb' 8 4).toNat = w.toNat / 256 % 16 := by
  rw [BitVec.extractLsb'_toNat, Nat.shiftRight_eq_div_pow]

theorem decode_of_kind_zero {w : HostWord} (h : w.toNat < 0x1000) :
    decode w = decodeWrite (w.extractLsb' 8 4) (w.extractLsb' 0 8) := by
  unfold decode decodeFields
  rw [word_kind, Nat.div_eq_of_lt h]
  rfl

/-- A word of the kinds 1 and above writes no register, and is a RESTORE only if its kind is 6. -/
theorem decode_of_kind_pos {w : HostWord} (h : 0x1000 ≤ w.toNat) :
    registerWritten (decode w) = none ∧
      (decode w = .restore → 0x6000 ≤ w.toNat ∧ w.toNat < 0x7000) := by
  unfold decode decodeFields
  rw [word_kind]
  split
  case h_1 => omega
  case h_7 => exact ⟨rfl, fun _ => by omega⟩
  all_goals exact ⟨rfl, nofun⟩

theorem registerWritten_decode {w : HostWord} (h : w.toNat < 0xF00) :
    registerWritten (decode w) = some (⟨w.toNat / 256, by omega⟩, w.extractLsb' 0 8) := by
  have hidx : (w.extractLsb' 8 4).toNat = w.toNat / 256 := by rw [word_idx]; omega
  rw [decode_of_kind_zero (by omega), registerWritten_decodeWrite (by omega)]
  simp only [hidx]

theorem decode_wr15 {w : HostWord} (h : 0xF00 ≤ w.toNat) (h' : w.toNat < 0x1000) :
    decode w = .wr15 (w.extractLsb' 0 8) := by
  rw [decode_of_kind_zero h', decodeWrite_fifteen (by rw [word_idx]; omega)]

theorem registerWritten_decode_eq_none {w : HostWord} (h : 0xF00 ≤ w.toNat) :
    registerWritten (decode w) = none := by
  by_cases h' : w.toNat < 0x1000
  · rw [decode_wr15 h h']
    rfl
  · exact (decode_of_kind_pos (by omega)).1

theorem decode_ne_restore {w : HostWord} (h : ¬ (0x6000 ≤ w.toNat ∧ w.toNat < 0x7000)) :
    decode w ≠ .restore := by
  intro hw
  by_cases hlow : w.toNat < 0xF00
  · simpa [hw, registerWritten] using registerWritten_decode hlow
  · by_cases hzero : w.toNat < 0x1000
    · rw [decode_wr15 (by omega) hzero] at hw
      cases hw
    · exact h ((decode_of_kind_pos (by omega)).2 hw)

/-- Settles O12: the register a call writes, and the register its word names. -/
theorem registersChangeOnlyByTheirWrite : Obligations.RegistersChangeOnlyByTheirWrite := by
  unfold Obligations.RegistersChangeOnlyByTheirWrite
  intro w s t hw hexec i
  obtain ⟨-, -, rfl⟩ := exec_eq_next.1 hexec
  rw [effect_regs s _ (decode_ne_restore hw)]
  by_cases hlow : w.toNat < 0xF00
  · rw [registerWritten_decode hlow]
    simp only [Regs.afterWrite, Fin.getElem_fin, Vector.getElem_set]
    simp [show w.toNat < 0x1000 by omega]
  · rw [registerWritten_decode_eq_none (by omega), if_neg (by omega)]
    rfl

end Sys2Proof.Machine
end

section
/-! PROOFS. The cost counters and the blanking flag influence nothing else. -/

namespace Sys2Proof.Machine

variable {s t : State}

/-! ## Costs influence nothing else (10_state.md R33, 40_dispatch.md R123)

Two states that differ in the blanking flag and the cost counters alone are taken to two such states by
every operation: each operation, its counters erased, is an operation on the state with its counters
erased. -/

/-- The geometry with its cost counter set to 0. -/
def Geom.eraseCost (g : Geom) : Geom := { g with opc := 0 }

/-- The record with its cost counters set to 0. -/
def Record.eraseCost (r : Record) : Record :=
  { r with lastCost := 0, geom := r.geom.map Geom.eraseCost }

/-- The states differ at most in the blanking flag and the cost counters. -/
def SameButCost (s t : State) : Prop := s.eraseCost = t.eraseCost

@[simp] theorem eraseCost_vram : s.eraseCost.vram = s.vram := rfl
@[simp] theorem eraseCost_params : s.eraseCost.params = s.params := rfl
@[simp] theorem eraseCost_draws : s.eraseCost.draws = s.draws := rfl

theorem cost_eraseCost (s : State) (k : CostClass) : (s.cost k).eraseCost = s.eraseCost := by
  cases hg : s.geom <;> simp [State.eraseCost, hg]

theorem setPixel_eraseCost (s : State) (l : Layout) (x y : Int) (c : Byte) (lo : BitVec 4) :
    (s.setPixel l x y c lo).eraseCost = s.eraseCost.setPixel l x y c lo := by
  simp only [State.setPixel, eraseCost_vram, eraseCost_params, eraseCost_draws]
  split
  · rfl
  · split <;> rfl

theorem ended_eraseCost (s : State) (op : Opcode) (lo : BitVec 4) :
    (s.ended op lo).eraseCost = s.eraseCost.ended op lo := by
  cases hc : s.ce <;> cases hg : s.geom <;>
    simp [State.ended, State.eraseCost, State.counter, hc, hg]

namespace SameButCost

variable (h : SameButCost s t)
include h

/-- What is computed from the states with the counters erased is the same. -/
theorem congr {α : Type} (f : State → α) : f s.eraseCost = f t.eraseCost := congrArg f h

/-- States that are, their counters erased, the same function of the erased states are related. -/
theorem via (f : State → State) {u v : State} (hu : u.eraseCost = f s.eraseCost)
    (hv : v.eraseCost = f t.eraseCost) : SameButCost u v :=
  hu.trans ((h.congr f).trans hv.symm)

theorem regs : s.regs = t.regs := h.congr State.regs
theorem ce : s.ce = t.ce := h.congr State.ce
theorem mode : s.mode = t.mode := h.congr State.mode
theorem params : s.params = t.params := h.congr State.params
theorem fault : s.fault = t.fault := h.congr State.fault
theorem refused : s.refused = t.refused := h.congr State.refused
theorem status : s.status = t.status := h.congr State.status

theorem sameVideo : SameVideo s t :=
  ⟨h.congr State.vram, h.congr State.draws, h.congr State.params⟩

theorem geom : s.geom.map Geom.eraseCost = t.geom.map Geom.eraseCost := h.congr State.geom

theorem saved : s.saved.map Record.eraseCost = t.saved.map Record.eraseCost := h.congr State.saved

/-- The geometries are both absent, or differ in the counter. -/
theorem geom_cases : (s.geom = none ∧ t.geom = none) ∨
    ∃ g c, s.geom = some g ∧ t.geom = some { g with opc := c } := by
  have hg := h.geom
  cases hs : s.geom <;> cases ht : t.geom <;> rw [hs, ht] at hg
  case none.none => exact .inl ⟨rfl, rfl⟩
  case none.some => cases hg
  case some.none => cases hg
  case some.some g g' =>
    obtain ⟨⟩ := g
    obtain ⟨⟩ := g'
    cases hg
    exact .inr ⟨_, _, rfl, rfl⟩

/-! ### The shared operations -/

theorem writeReg (i : Fin 15) (v : Byte) : SameButCost (s.writeReg i v) (t.writeReg i v) :=
  h.via (State.writeReg · i v) rfl rfl

theorem raiseFault (r : Fault) : SameButCost (s.raiseFault r) (t.raiseFault r) :=
  h.via (State.raiseFault · r) rfl rfl

theorem refuse (r : RefuseReason) : SameButCost (s.refuse r) (t.refuse r) :=
  h.via (State.refuse · r) rfl rfl

theorem reply {b b' : Byte} (hb : b = b') : SameButCost (s.reply b) (t.reply b') :=
  hb ▸ h.via (State.reply · b) rfl rfl

theorem readyForTransfer : SameButCost s.readyForTransfer t.readyForTransfer :=
  h.via State.readyForTransfer rfl rfl

theorem finish : SameButCost s.finish t.finish :=
  h.via (fun u => { u with geom := none, ce := false, tr := false }) rfl rfl

theorem withGeom {g g' : Geom} (hg : g.eraseCost = g'.eraseCost) :
    SameButCost { s with geom := some g } { t with geom := some g' } :=
  h.via (fun u => { u with geom := some g.eraseCost }) rfl (by rw [hg]; rfl)

theorem cost (k : CostClass) : SameButCost (s.cost k) (t.cost k) :=
  h.via id (cost_eraseCost s k) (cost_eraseCost t k)

theorem setPixel (l : Layout) (x y : Int) {c c' : Byte} (hc : c = c') (lo : BitVec 4) :
    SameButCost (s.setPixel l x y c lo) (t.setPixel l x y c' lo) :=
  hc ▸ h.via (State.setPixel · l x y c lo) (setPixel_eraseCost s l x y c lo)
    (setPixel_eraseCost t l x y c lo)

theorem writeByteAt (l : Layout) (bx y : Int) {v v' : Byte} (hv : v = v') :
    SameButCost (s.writeByteAt l bx y v) (t.writeByteAt l bx y v') :=
  hv ▸ h.via (State.writeByteAt · l bx y v) rfl rfl

theorem loop {n : Nat} {body : Nat → State → State}
    (hb : ∀ i {s t : State}, SameButCost s t → SameButCost (body i s) (body i t)) :
    SameButCost (forUpTo n body s) (forUpTo n body t) :=
  forUpTo_related h fun i _ _ h => hb i h

/-- A transfer step whose move does not look at the counter. -/
theorem advance {move : Geom → Geom}
    (hmove : ∀ (g : Geom) (c : Nat), move { g with opc := c } = { move g with opc := c }) :
    SameButCost (s.advance move) (t.advance move) := by
  obtain ⟨hs, ht⟩ | ⟨g, c, hs, ht⟩ := h.geom_cases
  · simpa [State.advance, hs, ht] using h
  · cases he : g.endsOperation with
    | true =>
      rw [advance_last hs he, advance_last ht he]
      exact h.finish
    | false =>
      rw [advance_in_row hs he, advance_in_row ht he]
      exact h.withGeom (by rw [hmove g c]; rfl)

end SameButCost

/-! ### Transfer steps -/

theorem endsRow_withOpc (g : Geom) (c : Nat) : Geom.endsRow { g with opc := c } = g.endsRow := rfl

theorem advanceSource_withOpc (g : Geom) (c : Nat) :
    Geom.advanceSource { g with opc := c } = { g.advanceSource with opc := c } := by
  cases he : g.endsRow <;> simp [Geom.advanceSource, endsRow_withOpc, he]

theorem advanceDest_withOpc (g : Geom) (c : Nat) :
    Geom.advanceDest { g with opc := c } = { g.advanceDest with opc := c } := by
  cases he : g.endsRow <;> simp [Geom.advanceDest, endsRow_withOpc, he]

theorem SameButCost.readPixel (h : SameButCost s t) : SameButCost (readPixel s) (readPixel t) := by
  have hce := h.ce
  unfold Machine.readPixel
  obtain ⟨hs, ht⟩ | ⟨g, c, hs, ht⟩ := h.geom_cases
  · rw [hs, ht]
    exact h.raiseFault _
  · rw [hs, ht, hce]
    dsimp only
    split
    · exact ((h.cost .lmcm).reply ((h.cost .lmcm).sameVideo.getPixel ..)).advance advanceSource_withOpc
    · exact h.raiseFault _

theorem SameButCost.pixelWrite (h : SameButCost s t) (v : Byte) :
    SameButCost (pixelWrite v s) (pixelWrite v t) := by
  have hce := h.ce
  unfold Machine.pixelWrite
  obtain ⟨hs, ht⟩ | ⟨g, c, hs, ht⟩ := h.geom_cases
  · rw [hs, ht]
    exact h
  · rw [hs, ht, hce]
    dsimp only
    split
    · exact ((h.cost .lmmc).setPixel _ _ _ rfl _).advance advanceDest_withOpc
    · split
      · exact ((h.cost .hmmc).writeByteAt _ _ _ rfl).advance advanceDest_withOpc
      · exact h

/-! ### SAVE and RESTORE -/

theorem SameButCost.save (h : SameButCost s t) :
    SameButCost { s with saved := some s.record } { t with saved := some t.record } :=
  h.via (fun u => { u with saved := some u.record }) rfl rfl

theorem acceptable_eraseCost (r : Record) : r.eraseCost.acceptable = r.acceptable := by
  obtain ⟨_, _, _, _, _, geom, _⟩ := r
  cases geom <;> rfl

theorem SameButCost.restoreSaved (h : SameButCost s t) :
    SameButCost (restoreSaved s) (restoreSaved t) := by
  have hsaved := h.saved
  unfold Machine.restoreSaved
  cases hs : s.saved <;> cases ht : t.saved <;> rw [hs, ht] at hsaved
  case none.none => exact h.refuse _
  case none.some => cases hsaved
  case some.none => cases hsaved
  case some.some r r' =>
    have hr : r.eraseCost = r'.eraseCost := Option.some.inj hsaved
    dsimp only
    rw [← acceptable_eraseCost r, hr, acceptable_eraseCost r']
    split
    · exact h.via (State.load · r.eraseCost) rfl (by rw [hr]; rfl)
    · exact h.refuse _

/-! ### Handlers -/

/-- The handler takes related states to related states. -/
def IgnoresCost (handler : Geom → State → State) : Prop :=
  ∀ (g : Geom) {s t : State}, SameButCost s t → SameButCost (handler g s) (handler g t)

theorem lineFrom_ignoresCost (maj : Bool) (n : Nat) (p : LinePos) :
    IgnoresCost fun g => lineFrom g maj n p := by
  intro g s t h
  induction n generalizing p s t with
  | zero => exact (h.cost .line).setPixel _ _ _ rfl _
  | succ n ih => exact ih _ ((h.cost .line).setPixel _ _ _ rfl _)

theorem line_ignoresCost : IgnoresCost line := by
  intro g s t h
  unfold line
  rw [h.regs]
  exact (lineFrom_ignoresCost _ _ _ g h).finish

theorem logicalFill_ignoresCost : IgnoresCost logicalFill := by
  intro g s t h
  refine SameButCost.finish (h.loop fun j _ _ h => h.loop fun i _ _ h => ?_)
  exact (h.cost .lmmv).setPixel _ _ _ rfl _

theorem logicalCopy_ignoresCost : IgnoresCost logicalCopy := by
  intro g s t h
  refine SameButCost.finish (h.loop fun j _ _ h => h.loop fun i _ _ h => ?_)
  have hcost := h.cost .lmmm
  exact hcost.setPixel _ _ _ (hcost.sameVideo.getPixel ..) _

theorem byteFill_ignoresCost : IgnoresCost byteFill := by
  intro g s t h
  unfold byteFill
  dsimp only
  split
  · exact h.finish
  · refine SameButCost.finish (h.loop fun j _ _ h => h.loop fun i _ _ h => ?_)
    exact (h.cost .hmmv).writeByteAt _ _ _ rfl

theorem byteCopy_ignoresCost : IgnoresCost byteCopy := by
  intro g s t h
  unfold byteCopy
  dsimp only
  split
  · exact h.finish
  · refine SameButCost.finish (h.loop fun j _ _ h => h.loop fun i _ _ h => ?_)
    have hcost := h.cost .hmmm
    exact hcost.writeByteAt _ _ _ (hcost.sameVideo.readByteAt ..)

theorem columnCopy_ignoresCost : IgnoresCost columnCopy := by
  intro g s t h
  refine SameButCost.finish (h.loop fun j _ _ h => h.loop fun k _ _ h => ?_)
  have hcost := h.cost .ymmm
  exact hcost.writeByteAt _ _ _ (hcost.sameVideo.readByteAt ..)

theorem hmmcStart_ignoresCost : IgnoresCost hmmcStart := by
  intro g s t h
  unfold hmmcStart
  dsimp only
  split
  · exact (h.withGeom rfl).finish
  · exact (h.withGeom rfl).readyForTransfer

theorem readyForTransfer_ignoresCost : IgnoresCost fun _ s => s.readyForTransfer :=
  fun _ _ _ h => h.readyForTransfer

theorem noHandler_ignoresCost : IgnoresCost noHandler := fun _ _ _ h => h

theorem SameButCost.withBorder (h : SameButCost s t) (b : Bool) {x x' : Int} (hx : x = x') :
    SameButCost { s with bd := b, borderX := x } { t with bd := b, borderX := x' } :=
  hx ▸ h.via (fun u => { u with bd := b, borderX := x }) rfl rfl

theorem searchMiss_ignoresCost (x : Int) : IgnoresCost fun g => searchMiss g x :=
  fun _ _ _ h => (h.withBorder false (by rw [h.params])).finish

theorem searchFrom_ignoresCost (eq : Bool) (n : Nat) (x : Int) :
    IgnoresCost fun g => searchFrom g eq n x := by
  intro g s t h
  induction n generalizing x s t with
  | zero => exact searchMiss_ignoresCost x g h
  | succ n ih =>
    have hcost := h.cost .srch
    simp only [searchFrom, hcost.sameVideo.getPixel]
    split
    · split
      · exact (hcost.withBorder true rfl).finish
      · exact ih _ hcost
    · exact searchMiss_ignoresCost x g h

theorem search_ignoresCost : IgnoresCost search := by
  intro g s t h
  unfold search
  rw [h.regs]
  exact searchFrom_ignoresCost _ _ _ g h

/-! ### Starts -/

theorem SameButCost.ended (h : SameButCost s t) (op : Opcode) (lo : BitVec 4) :
    SameButCost (s.ended op lo) (t.ended op lo) :=
  h.via (State.ended · op lo) (ended_eraseCost s op lo) (ended_eraseCost t op lo)

theorem SameButCost.running (h : SameButCost s t) (op : Opcode) (lo : BitVec 4) (l : Layout) :
    SameButCost (s.running op lo l) (t.running op lo l) :=
  (h.ended op lo).via
    (fun u => { u with tr := false, geom := some (snapshot op lo l s.regs), ce := true }) rfl
    (by rw [h.regs]; rfl)

theorem SameButCost.start (h : SameButCost s t) (op : Opcode) (lo : BitVec 4)
    {handler : Geom → State → State} (hh : IgnoresCost handler) :
    SameButCost (s.start op lo handler) (t.start op lo handler) := by
  cases hop : op.isNoop with
  | true =>
    rw [start_noop hop, start_noop hop]
    exact (h.ended op lo).via id rfl rfl
  | false =>
    by_cases hp : t.ce = false ∨ t.params.restartPolicy = .abort
    · have hp' : s.ce = false ∨ s.params.restartPolicy = .abort := by rwa [h.ce, h.params]
      cases hm : t.mode with
      | other =>
        rw [start_in_other hop hp hm, start_in_other hop hp' (h.mode.trans hm)]
        exact (h.ended op lo).refuse _
      | layout l =>
        have hm' := h.mode.trans hm
        by_cases hd : op.isRectangle = true ∧ (t.regs.nx = 0 ∨ t.regs.ny = 0)
        · rw [start_degenerate hd.1 hp hm hd.2, start_degenerate hd.1 hp' hm' (h.regs ▸ hd.2)]
          exact (h.running op lo l).finish
        · have hd' : op.isRectangle = true → t.regs.nx ≠ 0 ∧ t.regs.ny ≠ 0 := by tauto
          rw [start_runs hop hp hm hd', start_runs hop hp' hm' (h.regs ▸ hd'), h.regs]
          exact hh _ (h.running op lo l)
    · obtain ⟨hce, hpolicy⟩ : t.ce = true ∧ t.params.restartPolicy = .refuse := by
        cases hc : t.ce <;> cases hr : t.params.restartPolicy <;> simp_all
      rw [start_restart_refused hop hce hpolicy,
        start_restart_refused hop (h.ce.trans hce) (h.params ▸ hpolicy)]
      exact (h.writeReg 14 _).refuse _

/-! ### Every host call -/

theorem SameButCost.effect (h : SameButCost s t) : ∀ i, SameButCost (effect i s) (effect i t)
  | .wrSxl _ | .wrSxh _ | .wrSyl _ | .wrSyh _ | .wrDxl _ | .wrDxh _ | .wrDyl _ | .wrDyh _
  | .wrNxl _ | .wrNxh _ | .wrNyl _ | .wrNyh _ | .wrArg _ => h.writeReg _ _
  | .wrClr v => (h.writeReg 12 v).pixelWrite v
  | .cmdStop lo => h.start .stop lo noHandler_ignoresCost
  | .cmdUnknown1 lo => h.start .unknown1 lo noHandler_ignoresCost
  | .cmdUnknown2 lo => h.start .unknown2 lo noHandler_ignoresCost
  | .cmdUnknown3 lo => h.start .unknown3 lo noHandler_ignoresCost
  | .cmdUnknown4 lo => h.start .unknown4 lo noHandler_ignoresCost
  | .cmdUnknown5 lo => h.start .unknown5 lo noHandler_ignoresCost
  | .cmdSrch lo => h.start .srch lo search_ignoresCost
  | .cmdLine lo => h.start .line lo line_ignoresCost
  | .cmdLmmv lo => h.start .lmmv lo logicalFill_ignoresCost
  | .cmdLmmm lo => h.start .lmmm lo logicalCopy_ignoresCost
  | .cmdLmcm lo => h.start .lmcm lo readyForTransfer_ignoresCost
  | .cmdLmmc lo => h.start .lmmc lo readyForTransfer_ignoresCost
  | .cmdHmmv lo => h.start .hmmv lo byteFill_ignoresCost
  | .cmdHmmm lo => h.start .hmmm lo byteCopy_ignoresCost
  | .cmdYmmm lo => h.start .ymmm lo columnCopy_ignoresCost
  | .cmdHmmc lo => h.start .hmmc lo hmmcStart_ignoresCost
  | .wr15 _ => h.raiseFault _
  | .rs => h.reply h.status
  | .rp => h.readPixel
  | .mode m => h.via (fun u => { u with mode := modeOfByte m }) rfl rfl
  | .save => h.save
  | .restore => h.restoreSaved
  | .vnote | .reservedKind7 | .reservedKinds8F => h

theorem hostCall_sameButCost (h : SameButCost s t) {f : State → State}
    (hf : SameButCost (f s) (f t)) :
    mapNext State.eraseCost (hostCall s f) = mapNext State.eraseCost (hostCall t f) := by
  unfold hostCall
  rw [h.fault, h.refused]
  split
  · rfl
  · rfl
  · exact congrArg Host.Outcome.next hf

/-- Settles O58: every effect takes related states to related states, and the marks are the same. -/
theorem costInfluencesNothingElse : Obligations.CostInfluencesNothingElse := by
  unfold Obligations.CostInfluencesNothingElse
  intro i s t h
  cases hi : i.wellFormed with
  | true =>
    rw [exec_eq_hostCall hi, exec_eq_hostCall hi]
    exact hostCall_sameButCost h (SameButCost.effect h i)
  | false => rw [exec_of_not_wellFormed hi, exec_of_not_wellFormed hi]

end Sys2Proof.Machine
end

section
/-! PROOFS. The address function: its value, and that it maps the byte columns and rows onto VRAM. -/

namespace Sys2Proof

/-! ## Words from the low bits of coordinates (00_scope.md R9) -/

theorem lowBits_toNat {k : Nat} (hk : k ≤ 17) (a : Int) :
    ((lowBits k a).toNat : Int) = a % (2 ^ k : Nat) := by
  have hpos : (0 : Int) < (2 ^ k : Nat) := mod_cast Nat.two_pow_pos k
  have hle : 2 ^ k ≤ 2 ^ 17 := Nat.pow_le_pow_right (by decide) hk
  have hnonneg := Int.emod_nonneg a hpos.ne'
  have hlt := Int.emod_lt_of_pos a hpos
  rw [lowBits, BitVec.toNat_setWidth, BitVec.toNat_ofInt, Nat.mod_eq_of_lt (by omega)]
  omega

theorem lowBits_lt {k : Nat} (hk : k ≤ 17) (a : Int) : (lowBits k a).toNat < 2 ^ k := by
  have hlt := Int.emod_lt_of_pos a (b := (2 ^ k : Nat)) (mod_cast Nat.two_pow_pos k)
  rw [← lowBits_toNat hk] at hlt
  exact_mod_cast hlt

/-- A word shifted left, with a word put below it, is a sum. -/
theorem toNat_shiftLeft_or {n : Nat} {hi lo : VramAddr} (hhi : hi.toNat * 2 ^ n < 2 ^ 17)
    (hlo : lo.toNat < 2 ^ n) : (hi <<< n ||| lo).toNat = hi.toNat * 2 ^ n + lo.toNat := by
  rw [BitVec.toNat_or, BitVec.toNat_shiftLeft, Nat.shiftLeft_eq, Nat.mod_eq_of_lt hhi,
    Nat.mul_comm, Nat.two_pow_add_eq_or_of_lt hlo]

/-- The shape every layout's address has: the low bits of Y above those of X, which are without the
bits that select a pixel. -/
theorem rowColumn_toNat (k n j m : Nat) (x y : Int) (hrow : k + n ≤ 17 := by decide)
    (hj : j ≤ 17 := by decide) (hcolumn : j ≤ n + m := by decide) :
    ((lowBits k y <<< n ||| lowBits j x >>> m).toNat : Int) =
      y % (2 ^ k : Nat) * (2 ^ n : Nat) + x % (2 ^ j : Nat) / (2 ^ m : Nat) := by
  have hk : k ≤ 17 := by omega
  have hhi : (lowBits k y).toNat * 2 ^ n < 2 ^ 17 :=
    calc (lowBits k y).toNat * 2 ^ n
      _ < 2 ^ k * 2 ^ n := Nat.mul_lt_mul_of_pos_right (lowBits_lt hk y) (Nat.two_pow_pos n)
      _ = 2 ^ (k + n) := (Nat.pow_add ..).symm
      _ ≤ 2 ^ 17 := Nat.pow_le_pow_right (by decide) hrow
  have hlo : (lowBits j x >>> m).toNat < 2 ^ n := by
    rw [BitVec.toNat_ushiftRight, Nat.shiftRight_eq_div_pow, Nat.div_lt_iff_lt_mul (Nat.two_pow_pos m),
      ← Nat.pow_add]
    exact (lowBits_lt hj x).trans_le (Nat.pow_le_pow_right (by decide) hcolumn)
  rw [toNat_shiftLeft_or hhi hlo, BitVec.toNat_ushiftRight, Nat.shiftRight_eq_div_pow]
  push_cast
  rw [lowBits_toNat hk, lowBits_toNat hj]
  push_cast
  rfl

/-- A bank bit above an address within a 64 KiB half. -/
theorem bank_toNat {b v : VramAddr} (hb : b.toNat < 2) (hv : v.toNat < 65536) :
    (b <<< 16 ||| v).toNat = b.toNat * 65536 + v.toNat :=
  toNat_shiftLeft_or (by omega) hv

/-- The bank bit of layout 2, bit 1 of X (20_memory.md R56). -/
theorem bankBit_shift (v : VramAddr) : (v &&& 2) <<< 15 = v >>> 1 <<< 16 := by
  ext i hi
  interval_cases i <;> simp

/-! ## The address function by byte column and row (20_memory.md R54 to R56) -/

/-- The byte column of X, taken modulo the width. -/
def Layout.column (l : Layout) (x : Int) : Nat :=
  match l with
  | .l0 => (x % 256 / 2).toNat
  | .l1 => (x % 512 / 4).toNat
  | .l2 => (x % 512 / 2).toNat
  | .l3 => (x % 256).toNat

/-- The row of Y, taken modulo the rows. -/
def Layout.row (l : Layout) (y : Int) : Nat :=
  match l with
  | .l0 | .l1 => (y % 1024).toNat
  | .l2 | .l3 => (y % 512).toNat

/-- The address of a byte column and a row as a number. Interleaved, the rows of the odd byte columns
follow those of the even ones. -/
def Layout.byteIndex (l : Layout) (planar : Bool) (c r : Nat) : Nat :=
  match l, planar with
  | .l0, _ | .l1, _ => r * 128 + c
  | .l2, false | .l3, false => r * 256 + c
  | .l2, true | .l3, true => (c % 2 * 512 + r) * 128 + c / 2

/-- The half and the byte of layout 2 interleaved (20_memory.md R56), by its byte column. -/
theorem Layout.l2_column_halves (x : Int) : x % 4 / 2 = (Layout.l2.column x % 2 : Nat) ∧
    x % 512 / 4 = (Layout.l2.column x / 2 : Nat) := by
  simp only [column]
  constructor <;> omega

theorem Layout.address_toNat (x y : Int) : ∀ (l : Layout) (planar : Bool),
    (l.address planar x y).toNat = l.byteIndex planar (l.column x) (l.row y)
  | .l0, _ => by
    have h := rowColumn_toNat 10 7 8 1 x y
    simp only [Layout.address, byteIndex, column, row]
    omega
  | .l1, _ => by
    have h := rowColumn_toNat 10 7 9 2 x y
    simp only [Layout.address, byteIndex, column, row]
    omega
  | .l2, false => by
    have h := rowColumn_toNat 9 8 9 1 x y
    simp only [Layout.address, byteIndex, column, row, Bool.false_eq_true, reduceIte]
    omega
  | .l3, false => by
    have h := rowColumn_toNat 9 8 8 0 x y
    rw [BitVec.ushiftRight_zero] at h
    simp only [Layout.address, byteIndex, column, row, Bool.false_eq_true, reduceIte]
    omega
  | .l2, true => by
    have hbank := lowBits_toNat (k := 2) (by decide) x
    have hbit : (lowBits 2 x >>> 1).toNat = (lowBits 2 x).toNat / 2 := by
      rw [BitVec.toNat_ushiftRight, Nat.shiftRight_eq_div_pow]
    have hhalf := rowColumn_toNat 9 7 9 2 x y
    obtain ⟨hodd, hcolumn⟩ := l2_column_halves x
    simp only [Layout.address, byteIndex, row, reduceIte, BitVec.or_assoc, bankBit_shift]
    rw [bank_toNat (by omega) (by omega)]
    omega
  | .l3, true => by
    have hbank := lowBits_toNat (k := 1) (by decide) x
    have hhalf := rowColumn_toNat 9 7 8 1 x y
    simp only [Layout.address, byteIndex, column, row, reduceIte, BitVec.or_assoc]
    rw [bank_toNat (by omega) (by omega)]
    omega

/-- Settles O32: row and byte column of each layout, without the interleaving. -/
theorem linearAddressWraps : Obligations.LinearAddressWraps := by
  unfold Obligations.LinearAddressWraps
  intro x y
  simp only [Layout.address_toNat, Layout.byteIndex, Layout.column, Layout.row]
  omega

/-- Settles O33: layouts 0 and 1 do not look at the flag; in the others it takes bit 0 of the byte
column for the half. -/
theorem interleavedAddressAlternatesHalves : Obligations.InterleavedAddressAlternatesHalves := by
  unfold Obligations.InterleavedAddressAlternatesHalves
  intro x y
  refine ⟨rfl, rfl, ?_, ?_⟩
  · obtain ⟨hodd, hcolumn⟩ := Layout.l2_column_halves x
    simp only [Layout.address_toNat, Layout.byteIndex, Layout.row]
    omega
  · simp only [Layout.address_toNat, Layout.byteIndex, Layout.column, Layout.row]
    omega

/-! ## Byte columns and rows cover VRAM once (20_memory.md R54, R68) -/

theorem Layout.bytesPerRow_eq (l : Layout) :
    l.bytesPerRow = match l with | .l0 | .l1 => 128 | .l2 | .l3 => 256 := by
  cases l <;> rfl

theorem Layout.column_lt (l : Layout) (x : Int) : l.column x < l.bytesPerRow := by
  cases l <;> simp only [column, bytesPerRow_eq] <;> omega

theorem Layout.row_lt (l : Layout) (y : Int) : l.row y < l.rows := by
  cases l <;> simp only [row, rows] <;> omega

theorem Layout.column_toPixelColumn {l : Layout} {bx : Nat} (h : bx < l.bytesPerRow) :
    l.column (l.toPixelColumn bx) = bx := by
  cases l <;> simp only [column, toPixelColumn, byteShift, bytesPerRow_eq] at h ⊢ <;> omega

theorem Layout.row_natCast {l : Layout} {y : Nat} (h : y < l.rows) : l.row y = y := by
  cases l <;> simp only [row, rows] at h ⊢ <;> omega

theorem Layout.byteAddress_toNat {l : Layout} {bx y : Nat} (hbx : bx < l.bytesPerRow) (hy : y < l.rows)
    (planar : Bool) : (l.byteAddress planar bx y).toNat = l.byteIndex planar bx y := by
  rw [byteAddress, address_toNat, column_toPixelColumn hbx, row_natCast hy]

theorem Layout.exists_byteIndex (l : Layout) (planar : Bool) {a : Nat} (ha : a < 131072) :
    ∃ c r, c < l.bytesPerRow ∧ r < l.rows ∧ l.byteIndex planar c r = a := by
  match l, planar with
  | .l0, _ | .l1, _ =>
    refine ⟨a % 128, a / 128, Nat.mod_lt _ (by decide), ?_, Nat.div_add_mod' a 128⟩
    simp only [rows]
    omega
  | .l2, false | .l3, false =>
    refine ⟨a % 256, a / 256, Nat.mod_lt _ (by decide), ?_, Nat.div_add_mod' a 256⟩
    simp only [rows]
    omega
  | .l2, true | .l3, true =>
    refine ⟨2 * (a % 128) + a / 128 / 512, a / 128 % 512, ?_, Nat.mod_lt _ (by decide), ?_⟩
    · simp only [bytesPerRow_eq]
      omega
    · have hrow := Nat.div_add_mod' a 128
      simp only [byteIndex]
      omega

theorem Layout.byteIndex_injective {l : Layout} {planar : Bool} {c r c' r' : Nat}
    (hc : c < l.bytesPerRow) (hr : r < l.rows) (hc' : c' < l.bytesPerRow) (hr' : r' < l.rows)
    (h : l.byteIndex planar c r = l.byteIndex planar c' r') : c = c' ∧ r = r' := by
  match l, planar with
  | .l0, _ | .l1, _ | .l2, false | .l3, false =>
    simp only [byteIndex, bytesPerRow_eq] at hc hc' h
    omega
  | .l2, true | .l3, true =>
    simp only [byteIndex, bytesPerRow_eq, rows] at hc hr hc' hr' h
    have hhalf : c / 2 = c' / 2 := by
      rw [← Nat.mul_add_mod_of_lt (show c / 2 < 128 by omega), h, Nat.mul_add_mod_of_lt (by omega)]
    omega

/-- Settles O34: every number below the VRAM size is the index of one byte column and row. -/
theorem layoutsCoverVramOnce : Obligations.LayoutsCoverVramOnce := by
  unfold Obligations.LayoutsCoverVramOnce
  refine fun l planar => ⟨fun a => ?_, fun bx y bx' y' hbx hy hbx' hy' h => ?_⟩
  · obtain ⟨bx, y, hbx, hy, he⟩ := l.exists_byteIndex planar a.isLt
    exact ⟨bx, y, hbx, hy, BitVec.eq_of_toNat_eq ((Layout.byteAddress_toNat hbx hy planar).trans he)⟩
  · rw [← BitVec.toNat_inj, Layout.byteAddress_toNat hbx hy, Layout.byteAddress_toNat hbx' hy'] at h
    exact Layout.byteIndex_injective hbx hy hbx' hy' h

end Sys2Proof
end

section
/-! PROOFS. The pixel accessor: SetPixel composites one pixel and keeps every other. -/

namespace Sys2Proof

/-! ## Where a pixel stands (20_memory.md R57) -/

theorem Layout.bitOffset_eq (l : Layout) (x : Int) :
    (l.bitOffset x : Int) = l.bitsPerPixel * (l.pixelsPerByte - 1 - x % l.pixelsPerByte) := by
  have hx1 := lowBits_toNat (k := 1) (by decide) x
  have hx2 := lowBits_toNat (k := 2) (by decide) x
  cases l <;>
    simp [Layout.bitOffset, Layout.bitsPerPixel, Layout.pixelsPerByte, Layout.byteShift] <;> omega

theorem Layout.bitOffset_add_le (l : Layout) (x : Int) : l.bitOffset x + l.bitsPerPixel ≤ 8 := by
  have h := l.bitOffset_eq x
  cases l <;> simp [Layout.bitsPerPixel, Layout.pixelsPerByte, Layout.byteShift] at h ⊢ <;> omega

theorem Layout.address_injective {l : Layout} {planar : Bool} {x y x' y' : Int}
    (h : l.address planar x y = l.address planar x' y') : l.column x = l.column x' ∧ l.row y = l.row y' := by
  rw [← BitVec.toNat_inj, address_toNat, address_toNat] at h
  exact byteIndex_injective (l.column_lt x) (l.row_lt y) (l.column_lt x') (l.row_lt y') h

/-- A pixel is named by its byte column and row and its place in the byte. -/
theorem Layout.samePixel_of_column {l : Layout} {x y x' y' : Int} (hcolumn : l.column x = l.column x')
    (hrow : l.row y = l.row y') (hx : x % l.pixelsPerByte = x' % l.pixelsPerByte) :
    Machine.samePixel l x y x' y' := by
  cases l <;>
    simp only [column, row, Machine.samePixel, pageWidth, Machine.PageWidth.toNat, rows,
      pixelsPerByte, byteShift] at * <;> omega

/-- Pixels at one address that are not the same pixel stand in disjoint bits of its byte. -/
theorem Layout.bitOffset_apart {l : Layout} {planar : Bool} {x y x' y' : Int}
    (ha : l.address planar x y = l.address planar x' y') (hp : ¬ Machine.samePixel l x y x' y') :
    l.bitOffset x + l.bitsPerPixel ≤ l.bitOffset x' ∨
      l.bitOffset x' + l.bitsPerPixel ≤ l.bitOffset x := by
  obtain ⟨hcolumn, hrow⟩ := address_injective ha
  have hx := mt (samePixel_of_column hcolumn hrow) hp
  have h := l.bitOffset_eq x
  have h' := l.bitOffset_eq x'
  cases l <;> simp only [bitsPerPixel, pixelsPerByte, byteShift] at * <;> omega

theorem Layout.pixelMask_getLsbD (l : Layout) {i : Nat} (hi : i < 8) :
    l.pixelMask.getLsbD i = decide (i < l.bitsPerPixel) := by
  revert i
  cases l <;> decide

namespace Machine

/-! ## Pixels of a byte (20_memory.md R58, R59) -/

/-- The pixel of column `x` in the byte `b`. -/
def pixelOfByte (l : Layout) (x : Int) (b : Byte) : Byte := (b >>> l.bitOffset x) &&& l.pixelMask

theorem getPixel_eq (s : State) (l : Layout) (x y : Int) :
    s.getPixel l x y = pixelOfByte l x (s.vram.read (l.address s.params.planarG6G7 x y)) := rfl

theorem pixelOfByte_and_mask (l : Layout) (x : Int) (b : Byte) :
    pixelOfByte l x b &&& l.pixelMask = pixelOfByte l x b := by
  rw [pixelOfByte, BitVec.and_assoc, BitVec.and_self]

theorem pixelOfByte_getLsbD (l : Layout) (x : Int) (b : Byte) {i : Nat} (hi : i < 8) :
    (pixelOfByte l x b).getLsbD i = (decide (i < l.bitsPerPixel) && b.getLsbD (l.bitOffset x + i)) := by
  rw [pixelOfByte, BitVec.getLsbD_and, BitVec.getLsbD_ushiftRight, l.pixelMask_getLsbD hi, Bool.and_comm]

/-- The bits of a merged byte: those of the pixel where it stands, those of the byte elsewhere. -/
theorem mergePixel_getLsbD {l : Layout} {r : Byte} (hr : r &&& l.pixelMask = r) (x : Int) (b : Byte)
    {i : Nat} (hi : i < 8) : (mergePixel l x b r).getLsbD i =
      if l.bitOffset x ≤ i ∧ i < l.bitOffset x + l.bitsPerPixel then r.getLsbD (i - l.bitOffset x)
      else b.getLsbD i := by
  have hmask := l.pixelMask_getLsbD (i := i - l.bitOffset x) (by omega)
  have hpixel : r.getLsbD (i - l.bitOffset x) =
      (r.getLsbD (i - l.bitOffset x) && l.pixelMask.getLsbD (i - l.bitOffset x)) := by
    rw [← BitVec.getLsbD_and, hr]
  have hones : (0xFF : Byte).getLsbD i = true := by
    rw [show (0xFF : Byte) = BitVec.allOnes 8 from rfl, BitVec.getLsbD_allOnes, decide_eq_true hi]
  simp only [mergePixel, BitVec.getLsbD_or, BitVec.getLsbD_and, BitVec.getLsbD_xor,
    BitVec.getLsbD_shiftLeft, hones, hi]
  rw [hpixel, hmask]
  by_cases hlow : i < l.bitOffset x
  · simp [hlow]
  · have hle : l.bitOffset x ≤ i := Nat.le_of_not_lt hlow
    by_cases hin : i < l.bitOffset x + l.bitsPerPixel
    · have hpos : i - l.bitOffset x < l.bitsPerPixel := by omega
      simp [hle, hin, hpos, hlow]
    · have hpos : ¬ i - l.bitOffset x < l.bitsPerPixel := by omega
      simp [hin, hpos]

theorem pixelOfByte_mergePixel {l : Layout} {r : Byte} (hr : r &&& l.pixelMask = r) (x : Int)
    (b : Byte) : pixelOfByte l x (mergePixel l x b r) = r := by
  refine BitVec.eq_of_getLsbD_eq fun i hi => ?_
  have hle := l.bitOffset_add_le x
  rw [pixelOfByte_getLsbD l x _ hi]
  by_cases hin : i < l.bitsPerPixel
  · rw [mergePixel_getLsbD hr x b (by omega), if_pos (by omega)]
    simp [hin]
  · rw [← hr, BitVec.getLsbD_and, l.pixelMask_getLsbD hi]
    simp [hin]

/-- A merged pixel leaves the pixels in disjoint bits. -/
theorem pixelOfByte_mergePixel_apart {l : Layout} {r : Byte} (hr : r &&& l.pixelMask = r) {x x' : Int}
    (hx : l.bitOffset x + l.bitsPerPixel ≤ l.bitOffset x' ∨
      l.bitOffset x' + l.bitsPerPixel ≤ l.bitOffset x) (b : Byte) :
    pixelOfByte l x' (mergePixel l x b r) = pixelOfByte l x' b := by
  refine BitVec.eq_of_getLsbD_eq fun i hi => ?_
  have hle := l.bitOffset_add_le x'
  rw [pixelOfByte_getLsbD l x' _ hi, pixelOfByte_getLsbD l x' _ hi]
  by_cases hin : i < l.bitsPerPixel
  · rw [mergePixel_getLsbD hr x b (by omega), if_neg (by omega)]
  · simp [hin]

/-! ## Storing a pixel -/

/-- The state with the pixel value `r` stored at a coordinate. -/
def State.storePixel (s : State) (l : Layout) (x y : Int) (r : Byte) : State :=
  let a := l.address s.params.planarG6G7 x y
  { s with vram := s.vram.write a (mergePixel l x (s.vram.read a) r) }

variable {s : State} {l : Layout} {r : Byte}

theorem storePixel_getPixel (h : Memory.wf s.vram) (hr : r &&& l.pixelMask = r) (x y : Int) :
    (s.storePixel l x y r).getPixel l x y = r := by
  rw [getPixel_eq, State.storePixel, Memory.read_write h, if_pos rfl, pixelOfByte_mergePixel hr]

theorem storePixel_getPixel_other (h : Memory.wf s.vram) (hr : r &&& l.pixelMask = r)
    {x y x' y' : Int} (hp : ¬ samePixel l x y x' y') :
    (s.storePixel l x y r).getPixel l x' y' = s.getPixel l x' y' := by
  rw [getPixel_eq, State.storePixel, Memory.read_write h]
  split
  next ha => rw [← ha, pixelOfByte_mergePixel_apart hr (Layout.bitOffset_apart ha.symm hp), getPixel_eq, ha]
  next => rfl

/-! ## The table of logical operations (20_memory.md R60 to R62) -/

theorem isTransparent_iff (lo : BitVec 4) : isTransparent lo = true ↔ 8 ≤ lo.toNat := by
  revert lo; decide

theorem logOp_code (lo : BitVec 4) : (lo.extractLsb' 0 3).toNat = lo.toNat % 8 := by
  rw [BitVec.extractLsb'_toNat, Nat.shiftRight_zero]

theorem logOp_reserved {lo : BitVec 4} (h : reservedCode lo) (sc dc pm : Byte) :
    logOp lo sc dc pm = none := by
  have hcode : lo.toNat % 8 = 5 ∨ lo.toNat % 8 = 6 ∨ lo.toNat % 8 = 7 := by omega
  obtain hn | hn | hn := hcode <;> simp [logOp, hn]

/-- A code that is not reserved has a value, within the mask when the colours are. -/
theorem logOp_drawn {lo : BitVec 4} (h : ¬ reservedCode lo) {sc dc pm : Byte} (hsc : sc &&& pm = sc)
    (hdc : dc &&& pm = dc) : ∃ r, logOp lo sc dc pm = some r ∧ r &&& pm = r := by
  have hcode : lo.toNat % 8 < 5 := Nat.lt_of_not_le h
  unfold logOp
  rw [logOp_code]
  generalize lo.toNat % 8 = n at hcode
  interval_cases n
  · exact ⟨_, rfl, hsc⟩
  · exact ⟨_, rfl, by rw [BitVec.and_assoc, hdc]⟩
  · exact ⟨_, rfl, by rw [BitVec.and_or_distrib_right, hsc, hdc]⟩
  · refine ⟨_, rfl, ?_⟩
    rw [← hsc, ← hdc]
    ext i hi
    simp only [BitVec.getElem_and, BitVec.getElem_xor]
    grind
  · exact ⟨_, rfl, by rw [BitVec.and_assoc, BitVec.and_self]⟩

/-- Where no transparency intervenes, the table's value is that of the operation. -/
theorem combine_eq_logOp {lo : BitVec 4} {sc dc pm : Byte} (h : ¬ (8 ≤ lo.toNat ∧ sc = 0)) :
    combine lo sc dc pm = logOp lo sc dc pm := by
  have hlt := lo.isLt
  have hones : 0xFF ^^^ sc = ~~~sc := BitVec.allOnes_xor
  unfold combine logOp
  rw [logOp_code, hones]
  generalize lo.toNat = n at *
  interval_cases n <;> simp_all

theorem combine_transparent {lo : BitVec 4} (h : ¬ reservedCode lo) (ht : 8 ≤ lo.toNat)
    (dc pm : Byte) : combine lo 0 dc pm = some dc := by
  have hcode : lo.toNat % 8 < 5 := Nat.lt_of_not_le h
  have hn : lo.toNat = 8 ∨ lo.toNat = 9 ∨ lo.toNat = 10 ∨ lo.toNat = 11 ∨ lo.toNat = 12 := by omega
  obtain hn | hn | hn | hn | hn := hn <;> simp [combine, hn]

/-! ## SetPixel, by the three things it can do (20_memory.md R59) -/

variable {x y : Int} {c : Byte} {lo : BitVec 4}

theorem setPixel_transparent (h : 8 ≤ lo.toNat ∧ c &&& l.pixelMask = 0) :
    s.setPixel l x y c lo = s := by
  rw [State.setPixel, if_pos (by rwa [isTransparent_iff])]

/-- An operation of the table stores its value. -/
theorem setPixel_drawn (h : ¬ (8 ≤ lo.toNat ∧ c &&& l.pixelMask = 0)) (hlo : ¬ reservedCode lo) :
    ∃ r, combine lo (c &&& l.pixelMask) (s.getPixel l x y) l.pixelMask = some r ∧
      r &&& l.pixelMask = r ∧ s.setPixel l x y c lo = s.storePixel l x y r := by
  obtain ⟨r, hr, hmask⟩ := logOp_drawn hlo (sc := c &&& l.pixelMask) (pm := l.pixelMask)
    (by rw [BitVec.and_assoc, BitVec.and_self])
    (pixelOfByte_and_mask l x (s.vram.read (l.address s.params.planarG6G7 x y)))
  refine ⟨r, (combine_eq_logOp h).trans hr, hmask, ?_⟩
  rw [pixelOfByte] at hr
  simp only [State.setPixel, isTransparent_iff, if_neg h, hr]
  rfl

/-- A reserved code stores the next free value. -/
theorem setPixel_reserved (h : ¬ (8 ≤ lo.toNat ∧ c &&& l.pixelMask = 0)) (hlo : reservedCode lo) :
    s.setPixel l x y c lo =
      { s.storePixel l x y (Config.freePixel s.draws &&& l.pixelMask) with draws := s.draws + 1 } := by
  simp only [State.setPixel, isTransparent_iff, if_neg h, logOp_reserved hlo]
  rfl

/-- Settles O35: a transparent code on colour 0 leaves the state, and the table's value is the pixel
there; any other code stores the table's value. -/
theorem setPixelCompositesOnePixel : Obligations.SetPixelCompositesOnePixel := by
  unfold Obligations.SetPixelCompositesOnePixel
  intro s l x y c lo hwf hlo
  dsimp only
  by_cases h : 8 ≤ lo.toNat ∧ c &&& l.pixelMask = 0
  · rw [setPixel_transparent h, h.2]
    exact ⟨⟨s.vram, rfl⟩, combine_transparent hlo h.1 _ _, fun _ _ _ => rfl, fun _ _ => rfl,
      fun _ _ => rfl⟩
  · obtain ⟨r, hr, hmask, he⟩ := setPixel_drawn (s := s) (x := x) (y := y) h hlo
    have hother : ∀ a, a ≠ l.address s.params.planarG6G7 x y →
        (s.setPixel l x y c lo).vram.read a = s.vram.read a :=
      fun _ ha => setPixel_read_of_ne hwf ha.symm
    rw [he] at hother ⊢
    exact ⟨⟨_, rfl⟩, by rw [hr, storePixel_getPixel hwf hmask],
      fun _ _ => storePixel_getPixel_other hwf hmask, hother, fun h8 h0 => absurd ⟨h8, h0⟩ h⟩

/-- Settles O36: a transparent code on colour 0 leaves the state; any other reserved code stores the
free value it draws. -/
theorem reservedCodeDrawsThePixel : Obligations.ReservedCodeDrawsThePixel := by
  unfold Obligations.ReservedCodeDrawsThePixel
  intro s l x y c lo hwf hlo
  refine ⟨setPixel_transparent, fun h => ?_⟩
  have hmask : Config.freePixel s.draws &&& l.pixelMask &&& l.pixelMask =
      Config.freePixel s.draws &&& l.pixelMask := by rw [BitVec.and_assoc, BitVec.and_self]
  rw [setPixel_reserved h hlo]
  exact ⟨⟨_, rfl⟩, storePixel_getPixel hwf hmask x y,
    fun _ _ => storePixel_getPixel_other hwf hmask⟩

end Machine
end Sys2Proof
end

section
/-! PROOFS. The step, by the input it takes. -/

namespace Sys2Proof.Machine

/-- Settles O5: the step takes the call and runs the decoded word. -/
theorem stepRunsTheDecodedCall : Obligations.StepRunsTheDecodedCall := by
  unfold Obligations.StepRunsTheDecodedCall
  rintro s c rest i hinbox rfl -
  exact step_call hinbox

/-- Settles O6: the step takes the write, which is one memory write, or there is no input. -/
theorem stepTakesEnvironmentWrites : Obligations.StepTakesEnvironmentWrites := by
  unfold Obligations.StepTakesEnvironmentWrites
  refine fun s => ⟨fun a v rest hinbox hwf => ?_, step_nil⟩
  exact ⟨s.vram.write a v, step_vramWrite hinbox, Memory.write_wf hwf a v,
    fun b => Memory.read_write hwf a b v⟩

end Sys2Proof.Machine
end

section
/-! PROOFS. The encoding: decode and encode agree, and the reserved kinds are refused. -/

namespace Sys2Proof

/-! ## Decoding what was encoded (30_encoding.md R84, R85, R90) -/

/-- A word written to register 14 decodes by its opcode. -/
theorem decode_commandWord (op : Opcode) (lo : BitVec 4) :
    decode (hostWord 0 14 (commandByte op lo)) = decodeCommand op.code lo := by
  rw [decode_hostWord]
  show decodeCommand ((commandByte op lo).extractLsb' 4 4) ((commandByte op lo).extractLsb' 0 4) = _
  rw [commandByte_cm, commandByte_lo]

theorem decode_encode : ∀ i : Instr, i.wellFormed = true → decode (encode i) = i
  | .wrSxl _, _ | .wrSxh _, _ | .wrSyl _, _ | .wrSyh _, _ | .wrDxl _, _ | .wrDxh _, _
  | .wrDyl _, _ | .wrDyh _, _ | .wrNxl _, _ | .wrNxh _, _ | .wrNyl _, _ | .wrNyh _, _
  | .wrClr _, _ | .wrArg _, _ | .wr15 _, _ | .rs, _ | .rp, _ | .mode _, _ | .vnote, _ | .save, _
  | .restore, _ => decode_hostWord _ _ _
  | .cmdStop _, _ | .cmdUnknown1 _, _ | .cmdUnknown2 _, _ | .cmdUnknown3 _, _
  | .cmdUnknown4 _, _ | .cmdUnknown5 _, _ | .cmdSrch _, _ | .cmdLine _, _ | .cmdLmmv _, _
  | .cmdLmmm _, _ | .cmdLmcm _, _ | .cmdLmmc _, _ | .cmdHmmv _, _ | .cmdHmmm _, _
  | .cmdYmmm _, _ | .cmdHmmc _, _ => decode_commandWord _ _

/-- Settles O1, instruction by instruction: a command's word by its opcode, any other by its fields. -/
theorem decodeOfEncodeIsIdentity : Obligations.DecodeOfEncodeIsIdentity := decode_encode

/-! ## Which words name a host call (30_encoding.md R90, R92) -/

theorem decodeCommand_wellFormed (cm lo : BitVec 4) : (decodeCommand cm lo).wellFormed = true := by
  unfold decodeCommand
  split <;> rfl

theorem decodeWrite_wellFormed (idx : BitVec 4) (v : Byte) :
    (decodeWrite idx v).wellFormed = true := by
  unfold decodeWrite
  split
  case h_15 => exact decodeCommand_wellFormed _ _
  all_goals rfl

/-- A word names a host call if its kind is below 7. -/
theorem decode_wellFormed_iff (w : HostWord) :
    (decode w).wellFormed = true ↔ w.toNat < 0x7000 := by
  have hkind := Machine.word_kind w
  unfold decode decodeFields
  split
  case h_1 => exact iff_of_true (decodeWrite_wellFormed _ _) (by omega)
  case h_8 => exact iff_of_false Bool.false_ne_true (by omega)
  case h_9 =>
    simp only [imp_false] at *
    exact iff_of_false Bool.false_ne_true (by omega)
  all_goals exact iff_of_true rfl (by omega)

/-- Settles O3: such a word is not well formed, and such an instruction is refused. -/
theorem reservedKindsAreRefused : Obligations.ReservedKindsAreRefused := by
  unfold Obligations.ReservedKindsAreRefused
  refine ⟨fun w s h => ?_, fun s =>
    ⟨Machine.exec_of_not_wellFormed rfl s, Machine.exec_of_not_wellFormed rfl s⟩⟩
  have hw : (decode w).wellFormed = false := by
    rw [Bool.eq_false_iff, ne_eq, decode_wellFormed_iff]
    omega
  exact ⟨hw, Machine.exec_of_not_wellFormed hw s⟩

/-! ## Encoding what was decoded (30_encoding.md R92) -/

/-- A register write is encoded with the register's index and its byte. -/
theorem encode_of_registerWritten {i : Instr} {r : Fin 15} {v : Byte}
    (h : Machine.registerWritten i = some (r, v)) : encode i = hostWord 0 (BitVec.ofNat 4 r) v := by
  cases i <;> cases h <;> rfl

theorem encode_decodeWrite (idx : BitVec 4) (v : Byte) :
    encode (decodeWrite idx v) = hostWord 0 idx v := by
  by_cases h : idx.toNat < 15
  · rw [encode_of_registerWritten (Machine.registerWritten_decodeWrite h v), BitVec.ofNat_toNat,
      BitVec.setWidth_eq]
  · have hidx : idx = 15 := BitVec.eq_of_toNat_eq (show idx.toNat = 15 by omega)
    rw [hidx, Machine.decodeWrite_fifteen rfl]
    rfl

/-- A word under the mask of the kinds without a value. -/
theorem hostWord_and_kind (kind idx : BitVec 4) (v : Byte) :
    hostWord kind idx v &&& 0xF000 = hostWord kind 0 0 := by
  refine (hostWord_and kind idx 0xF 0 v 0).trans ?_
  rw [nibble_and_ones, nibble_and_zero, byte_and_zero]

/-- A word under the mask of the mode call. -/
theorem hostWord_and_kind_value (kind idx : BitVec 4) (v : Byte) :
    hostWord kind idx v &&& 0xF0FF = hostWord kind 0 v := by
  refine (hostWord_and kind idx 0xF 0 v 0xFF).trans ?_
  rw [nibble_and_ones, nibble_and_zero, show v &&& 0xFF = v from BitVec.and_allOnes]

/-- The bits the decoder takes from a word of a kind (30_encoding.md R92). -/
def bitsTaken (kind : BitVec 4) : HostWord :=
  if kind.toNat = 0 then 0xFFFF else if kind.toNat = 3 then 0xF0FF else 0xF000

theorem encode_decodeFields {kind : BitVec 4} (h : kind.toNat < 7) (idx : BitVec 4) (v : Byte) :
    encode (decodeFields kind idx v) = hostWord kind idx v &&& bitsTaken kind := by
  have hkind : kind = 0 ∨ kind = 3 ∨ kind = 1 ∨ kind = 2 ∨ kind = 4 ∨ kind = 5 ∨ kind = 6 := by
    revert kind; decide
  obtain rfl | rfl | rfl | rfl | rfl | rfl | rfl := hkind
  · exact (encode_decodeWrite idx v).trans BitVec.and_allOnes.symm
  · exact (hostWord_and_kind_value 3 idx v).symm
  all_goals exact (hostWord_and_kind _ idx v).symm

/-- Settles O2: the word by its three fields, and the kind by the word's size. -/
theorem encodeOfDecodeKeepsTheBitsTaken : Obligations.EncodeOfDecodeKeepsTheBitsTaken := by
  unfold Obligations.EncodeOfDecodeKeepsTheBitsTaken
  intro w h
  have hkind := Machine.word_kind w
  refine ⟨(decode_wellFormed_iff w).2 h, ?_⟩
  rw [decode, encode_decodeFields (by omega), hostWord_of_fields, bitsTaken]
  simp only [show (w.extractLsb' 12 4).toNat = 0 ↔ w.toNat < 0x1000 by omega,
    show (w.extractLsb' 12 4).toNat = 3 ↔ 0x3000 ≤ w.toNat ∧ w.toNat < 0x4000 by omega]

/-! ## Words written out (30_encoding.md R80, R85, R90, R91) -/

/-- Settles O4: the decoder, evaluated on each word. -/
theorem specWordsDecodeAsWritten : Obligations.SpecWordsDecodeAsWritten := by
  unfold Obligations.SpecWordsDecodeAsWritten
  decide

end Sys2Proof
end

section
/-! PROOFS. The snapshot's fields and the status byte. -/

namespace Sys2Proof.Machine

/-! ## Register pairs (30_encoding.md R81) -/

/-- The value of a register pair whose high register holds `n` bits of the field. -/
theorem registerPair_toNat (n : Nat) (high low : Byte) :
    (high.extractLsb' 0 n ++ low).toNat = high.toNat % 2 ^ n * 256 + low.toNat := by
  rw [toNat_append_eq, BitVec.extractLsb'_toNat, Nat.shiftRight_zero]
  rfl

/-- A direction bit, as the step it gives (30_encoding.md R83). -/
theorem dirOfBit_toInt (b : Bool) : (dirOfBit b).toInt = if b then -1 else 1 := by
  cases b <;> rfl

/-- Settles O23: the register pairs and the direction bits; the other fields are copied. -/
theorem snapshotAssemblesTheFields : Obligations.SnapshotAssemblesTheFields := by
  unfold Obligations.SnapshotAssemblesTheFields
  intro cm lo l r
  exact ⟨rfl, rfl, rfl, rfl, rfl, congrArg Nat.cast (registerPair_toNat 1 _ _),
    congrArg Nat.cast (registerPair_toNat 2 _ _), congrArg Nat.cast (registerPair_toNat 1 _ _),
    congrArg Nat.cast (registerPair_toNat 2 _ _), registerPair_toNat 1 _ _,
    registerPair_toNat 2 _ _, rfl, rfl, rfl, dirOfBit_toInt _, dirOfBit_toInt _, by cases l <;> rfl⟩

/-! ## The status byte (30_encoding.md R88) -/

theorem statusByte_toNat (tr bd ce : Bool) : (statusByte tr bd ce).toNat =
    (if tr then 128 else 0) + (if bd then 16 else 0) + (if ce then 1 else 0) := by
  revert tr bd ce; decide

/-- Settles O15: RS replies with the status byte, which is its three bits. -/
theorem readStatusReturnsThePackedBits : Obligations.ReadStatusReturnsThePackedBits := by
  unfold Obligations.ReadStatusReturnsThePackedBits
  exact fun s h => ⟨s.status, exec_of_unmarked rfl h, statusByte_toNat s.tr s.bd s.ce⟩

end Sys2Proof.Machine
end

section
/-! PROOFS. The register-14 writes: what every start of a group of opcodes does. -/

namespace Sys2Proof.Machine

variable {s : State} {lo : BitVec 4} {p : Instr × BitVec 4}

/-! ## The rows of a group are starts (30_encoding.md R85, 40_dispatch.md R103) -/

/-- The row's instruction starts `op`, and its CM is the opcode's code. -/
structure IsStart (op : Opcode) (lo : BitVec 4) (handler : Geom → State → State)
    (p : Instr × BitVec 4) : Prop where
  code : p.2 = op.code
  runs : ∀ s : State, s.Unmarked → exec p.1 s = .next (s.start op lo handler)

theorem IsStart.command {op : Opcode} {handler : Geom → State → State}
    (h : IsStart op lo handler p) : p.2 ++ lo = commandByte op lo := by
  rw [h.code]
  rfl

theorem noopCommands_isStart (hp : p ∈ noopCommands lo) :
    ∃ op, op.isNoop = true ∧ IsStart op lo noHandler p := by
  simp only [noopCommands, List.mem_cons, List.not_mem_nil, or_false] at hp
  obtain rfl | rfl | rfl | rfl | rfl | rfl := hp
  · exact ⟨.stop, rfl, rfl, fun _ => exec_of_unmarked rfl⟩
  · exact ⟨.unknown1, rfl, rfl, fun _ => exec_of_unmarked rfl⟩
  · exact ⟨.unknown2, rfl, rfl, fun _ => exec_of_unmarked rfl⟩
  · exact ⟨.unknown3, rfl, rfl, fun _ => exec_of_unmarked rfl⟩
  · exact ⟨.unknown4, rfl, rfl, fun _ => exec_of_unmarked rfl⟩
  · exact ⟨.unknown5, rfl, rfl, fun _ => exec_of_unmarked rfl⟩

/-- The handlers of the INSTANT opcodes complete, BD and border X kept, but for the search. -/
theorem instantCommands_isStart (hp : p ∈ instantCommands lo) :
    ∃ op handler, op.isNoop = false ∧ IsStart op lo handler p ∧
      (Completes handler ∨ p.1 = .cmdSrch lo ∧ handler = search) := by
  simp only [instantCommands, List.mem_cons, List.not_mem_nil, or_false] at hp
  obtain rfl | rfl | rfl | rfl | rfl | rfl | rfl := hp
  · exact ⟨.srch, _, rfl, ⟨rfl, fun _ => exec_of_unmarked rfl⟩, .inr ⟨rfl, rfl⟩⟩
  · exact ⟨.line, _, rfl, ⟨rfl, fun _ => exec_of_unmarked rfl⟩, .inl line_completed⟩
  · exact ⟨.lmmv, _, rfl, ⟨rfl, fun _ => exec_of_unmarked rfl⟩, .inl logicalFill_completed⟩
  · exact ⟨.lmmm, _, rfl, ⟨rfl, fun _ => exec_of_unmarked rfl⟩, .inl logicalCopy_completed⟩
  · exact ⟨.hmmv, _, rfl, ⟨rfl, fun _ => exec_of_unmarked rfl⟩, .inl byteFill_completed⟩
  · exact ⟨.hmmm, _, rfl, ⟨rfl, fun _ => exec_of_unmarked rfl⟩, .inl byteCopy_completed⟩
  · exact ⟨.ymmm, _, rfl, ⟨rfl, fun _ => exec_of_unmarked rfl⟩, .inl columnCopy_completed⟩

theorem transferCommands_isStart (hp : p ∈ transferCommands lo) :
    ∃ op handler, op.isNoop = false ∧ IsStart op lo handler p := by
  simp only [transferCommands, List.mem_cons, List.not_mem_nil, or_false] at hp
  obtain rfl | rfl | rfl := hp
  · exact ⟨.lmcm, _, rfl, rfl, fun _ => exec_of_unmarked rfl⟩
  · exact ⟨.lmmc, _, rfl, rfl, fun _ => exec_of_unmarked rfl⟩
  · exact ⟨.hmmc, _, rfl, rfl, fun _ => exec_of_unmarked rfl⟩

theorem startCommands_isStart (hp : p ∈ instantCommands lo ++ transferCommands lo) :
    ∃ op handler, op.isNoop = false ∧ IsStart op lo handler p := by
  obtain hp | hp := List.mem_append.1 hp
  · obtain ⟨op, handler, hop, hstart, -⟩ := instantCommands_isStart hp
    exact ⟨op, handler, hop, hstart⟩
  · exact transferCommands_isStart hp

/-- The rectangle opcodes are starts like the others. -/
theorem rectangleCommands_isStart (hp : p ∈ rectangleCommands lo) :
    ∃ op handler, op.isRectangle = true ∧ IsStart op lo handler p := by
  simp only [rectangleCommands, List.mem_cons, List.not_mem_nil, or_false] at hp
  obtain rfl | rfl | rfl | rfl | rfl | rfl | rfl | rfl := hp
  · exact ⟨.lmmv, _, rfl, rfl, fun _ => exec_of_unmarked rfl⟩
  · exact ⟨.lmmm, _, rfl, rfl, fun _ => exec_of_unmarked rfl⟩
  · exact ⟨.lmcm, _, rfl, rfl, fun _ => exec_of_unmarked rfl⟩
  · exact ⟨.lmmc, _, rfl, rfl, fun _ => exec_of_unmarked rfl⟩
  · exact ⟨.hmmv, _, rfl, rfl, fun _ => exec_of_unmarked rfl⟩
  · exact ⟨.hmmm, _, rfl, rfl, fun _ => exec_of_unmarked rfl⟩
  · exact ⟨.ymmm, _, rfl, rfl, fun _ => exec_of_unmarked rfl⟩
  · exact ⟨.hmmc, _, rfl, rfl, fun _ => exec_of_unmarked rfl⟩

/-! ## Starts without a handler (40_dispatch.md R106 to R109, R124) -/

/-- Settles O24: the start of a NOOP code. -/
theorem noopCommandsEndTheOperation : Obligations.NoopCommandsEndTheOperation := by
  unfold Obligations.NoopCommandsEndTheOperation
  intro s lo hs p hp
  obtain ⟨op, hop, hstart⟩ := noopCommands_isStart hp
  rw [hstart.runs s hs, start_noop hop, hstart.command]

/-- Settles O25: the start ends the active operation, then refuses for want of a layout. -/
theorem startInModeOtherIsRefused : Obligations.StartInModeOtherIsRefused := by
  unfold Obligations.StartInModeOtherIsRefused
  intro s lo hs hmode hpolicy p hp
  obtain ⟨op, handler, hop, hstart⟩ := startCommands_isStart hp
  rw [hstart.runs s hs, start_in_other hop hpolicy hmode, hstart.command]
  rfl

/-- Settles O26: the start stores the command byte, then refuses before it looks at the mode. -/
theorem restartIsRefusedUnderThatPolicy : Obligations.RestartIsRefusedUnderThatPolicy := by
  unfold Obligations.RestartIsRefusedUnderThatPolicy
  intro s lo hs hce hpolicy p hp
  obtain ⟨op, handler, hop, hstart⟩ := startCommands_isStart hp
  rw [hstart.runs s hs, start_restart_refused hop hce hpolicy, hstart.command]
  rfl

/-- Settles O27: the degenerate start finishes with the counter of a fresh snapshot. -/
theorem degenerateStartsCompleteAtOnce : Obligations.DegenerateStartsCompleteAtOnce := by
  unfold Obligations.DegenerateStartsCompleteAtOnce
  rintro s l lo ⟨hs, hmode, hpolicy⟩ hsize p hp
  obtain ⟨op, handler, hop, hstart⟩ := rectangleCommands_isStart hp
  rw [hstart.runs s hs, start_degenerate hop hpolicy hmode hsize, hstart.command]
  rfl

/-! ## Starts of the INSTANT opcodes (40_dispatch.md R110, R112, R126) -/

/-- The handler writes VRAM, draws, records BD and border X, and finishes. -/
def Finishes (handler : Geom → State → State) : Prop :=
  ∀ g s, ∃ v d b x c, handler g s = s.completed v d b x c

theorem Completes.finishes {handler : Geom → State → State} (h : Completes handler) :
    Finishes handler := by
  intro g s
  obtain ⟨v, d, c, he⟩ := h g s
  exact ⟨v, d, s.bd, s.borderX, c, he⟩

theorem search_finishes : Finishes search := by
  intro g s
  obtain ⟨b, x, c, he⟩ := search_completed g s
  exact ⟨s.vram, s.draws, b, x, c, he⟩

/-- A start whose handler finishes leaves a completed operation, degenerate or not. -/
theorem Finishes.start_completed {handler : Geom → State → State} (h : Finishes handler)
    {op : Opcode} (hop : op.isNoop = false) {l : Layout} (hmode : s.mode = .layout l)
    (hpolicy : s.ce = false ∨ s.params.restartPolicy = .abort) (lo : BitVec 4) :
    ∃ v d b x c, s.start op lo handler = (s.running op lo l).completed v d b x c := by
  by_cases hd : op.isRectangle = true ∧ (s.regs.nx = 0 ∨ s.regs.ny = 0)
  · exact ⟨s.vram, s.draws, s.bd, s.borderX, 0, start_degenerate hd.1 hpolicy hmode hd.2⟩
  · rw [start_runs hop hpolicy hmode (by tauto)]
    exact h _ _

/-- Settles O31: every such handler finishes, and all but SRCH's keep BD and border X. -/
theorem instantStartsRunToCompletion : Obligations.InstantStartsRunToCompletion := by
  unfold Obligations.InstantStartsRunToCompletion
  rintro s l lo ⟨hs, hmode, hpolicy⟩ p hp
  obtain ⟨op, handler, hop, hstart, hhandler⟩ := instantCommands_isStart hp
  have hfinishes : Finishes handler := by
    obtain hcompletes | ⟨-, rfl⟩ := hhandler
    · exact hcompletes.finishes
    · exact search_finishes
  have hborder (hne : p.1 ≠ .cmdSrch lo) : SameBorder s (s.start op lo handler) := by
    obtain hcompletes | ⟨hsearch, -⟩ := hhandler
    · exact start_sameBorder hcompletes.sameBorder
    · exact absurd hsearch hne
  refine ⟨_, hstart.runs s hs, ?_, hborder⟩
  obtain ⟨v, d, b, x, c, he⟩ := hfinishes.start_completed hop hmode hpolicy lo
  rw [he, hstart.command]
  exact ⟨rfl, rfl, rfl, rfl, rfl, rfl, rfl, rfl, rfl, rfl, rfl, rfl, rfl⟩

end Sys2Proof.Machine
end

section
/-! PROOFS. Register writes that start nothing, MODE, VNOTE, SAVE and RESTORE. -/

namespace Sys2Proof.Machine

variable {s : State}

/-! ## Register writes (40_dispatch.md R101, R102) -/

/-- Settles O9, write by write. -/
theorem plainWritesStoreTheByteOnly : Obligations.PlainWritesStoreTheByteOnly := by
  unfold Obligations.PlainWritesStoreTheByteOnly
  intro s v hs p hp
  simp only [plainWrites, List.mem_cons, List.not_mem_nil, or_false] at hp
  obtain rfl | rfl | rfl | rfl | rfl | rfl | rfl | rfl | rfl | rfl | rfl | rfl | rfl := hp
  all_goals exact exec_of_unmarked rfl hs

/-- With no CPU-to-VRAM transfer active a colour write does nothing more. -/
theorem pixelWrite_idle (v : Byte)
    (h : s.ce = false ∨ ∀ g, s.geom = some g → g.cm ≠ .lmmc ∧ g.cm ≠ .hmmc) :
    pixelWrite v s = s := by
  unfold pixelWrite
  split
  · rfl
  · rename_i g hg
    have hidle : ¬ (s.ce = true ∧ g.cm = .lmmc) ∧ ¬ (s.ce = true ∧ g.cm = .hmmc) := by
      obtain hce | hcm := h
      · simp [hce]
      · simp [hcm g hg]
    rw [if_neg hidle.1, if_neg hidle.2]

/-- Settles O10: the byte is stored, and no transfer takes it. -/
theorem colourWriteOutsideTransfersOnlyStores :
    Obligations.ColourWriteOutsideTransfersOnlyStores := by
  unfold Obligations.ColourWriteOutsideTransfersOnlyStores
  intro s v hs h
  rw [exec_of_unmarked rfl hs]
  exact congrArg Host.Outcome.next (pixelWrite_idle (s := s.writeReg 12 v) v h)

/-! ## MODE and VNOTE (40_dispatch.md R115, R117) -/

theorem modeOfByte_other {m : Byte} (h : 4 ≤ m.toNat) : modeOfByte m = .other := by
  unfold modeOfByte
  split
  case h_5 => rfl
  all_goals omega

/-- Settles O16: the mode is the one the byte names. -/
theorem modeCallSetsTheModeOnly : Obligations.ModeCallSetsTheModeOnly := by
  unfold Obligations.ModeCallSetsTheModeOnly
  intro s m hs
  refine ⟨modeOfByte m, exec_of_unmarked rfl hs, ?_, ?_, ?_, ?_, modeOfByte_other⟩
  all_goals
    rintro rfl
    rfl

/-- Settles O17: the effect of VNOTE is the identity. -/
theorem vramNotificationHasNoEffect : Obligations.VramNotificationHasNoEffect :=
  fun _ hs => exec_of_unmarked (i := .vnote) rfl hs

/-! ## SAVE (40_dispatch.md R118) -/

/-- Settles O18: the record is the state's, its status byte the three bits packed. -/
theorem saveTakesTheRecord : Obligations.SaveTakesTheRecord := by
  unfold Obligations.SaveTakesTheRecord
  exact fun s hs => ⟨s.record, exec_of_unmarked rfl hs, rfl, rfl, rfl, rfl, rfl, rfl,
    statusByte_toNat s.tr s.bd s.ce⟩

/-! ## Which records RESTORE accepts (40_dispatch.md R119, 10_state.md R25, R26, R32) -/

theorem transferActive_iff {geom : Option Geom} :
    transferActive geom = true ↔ ∃ g, geom = some g ∧ g.cm.isTransfer = true := by
  cases geom <;> simp [transferActive]

/-- The position lies in the ranges of 10_state.md R32. -/
def Geom.InRanges (g : Geom) : Prop :=
  -511 ≤ g.asx ∧ g.asx ≤ 1022 ∧ -511 ≤ g.adx ∧ g.adx ≤ 1022 ∧ -1023 ≤ g.sy ∧ g.sy ≤ 2046 ∧
    -1023 ≤ g.dy ∧ g.dy ≤ 2046

theorem inRange_iff {g : Geom} : g.inRange = true ↔ g.InRanges := by
  simp only [Geom.inRange, Geom.InRanges, decide_eq_true_iff]
  tauto

theorem unfinished_iff {g : Geom} : g.unfinished = true ↔ g.nx ≠ 0 ∧ g.anx ≠ 0 ∧ g.ny ≠ 0 := by
  simp only [Geom.unfinished, decide_eq_true_iff, ne_eq, Fin.ext_iff]
  rfl

theorem geometryAcceptable_iff {geom : Option Geom} : geometryAcceptable geom = true ↔
    ∀ g, geom = some g → g.cm.isTransfer = true →
      g.InRanges ∧ g.nx ≠ 0 ∧ g.anx ≠ 0 ∧ g.ny ≠ 0 := by
  cases geom with
  | none => simp [geometryAcceptable]
  | some g =>
    simp only [geometryAcceptable, Bool.or_eq_true, Bool.not_eq_true', Bool.and_eq_true, inRange_iff,
      unfinished_iff, Option.some.injEq, forall_eq']
    cases g.cm.isTransfer <;> simp

theorem acceptable_iff {r : Record} : r.acceptable = true ↔
    r.version = 1 ∧ r.status.getLsbD 0 = r.geom.isSome ∧
      (r.status.getLsbD 7 = true ↔ ∃ g, r.geom = some g ∧ g.cm.isTransfer = true) ∧
      ∀ g, r.geom = some g → g.cm.isTransfer = true →
        g.InRanges ∧ g.nx ≠ 0 ∧ g.anx ≠ 0 ∧ g.ny ≠ 0 := by
  rw [← geometryAcceptable_iff, ← transferActive_iff, ← Bool.eq_iff_iff]
  simp only [Record.acceptable, Bool.and_eq_true, beq_iff_eq, statusCe, statusTr, and_assoc]

/-! ## RESTORE (40_dispatch.md R119) -/

theorem exec_restore_accepted (hs : s.Unmarked) {r : Record} (hr : s.saved = some r)
    (h : r.acceptable = true) : exec .restore s = .next (s.load r) := by
  rw [exec_of_unmarked rfl hs]
  simp [effect, restoreSaved, hr, h]

theorem exec_restore_refused (hs : s.Unmarked) {r : Record} (hr : s.saved = some r)
    (h : r.acceptable ≠ true) : exec .restore s = .next (s.refuse .badRecord) := by
  rw [exec_of_unmarked rfl hs]
  simp [effect, restoreSaved, hr, h]

/-- Settles O19: the premises are those of an acceptable record. -/
theorem restoreReplacesTheRecordedFields : Obligations.RestoreReplacesTheRecordedFields := by
  unfold Obligations.RestoreReplacesTheRecordedFields
  intro s r hs hr hversion hactive hready hposition
  exact exec_restore_accepted hs hr (acceptable_iff.2 ⟨hversion, hactive, hready, hposition⟩)

/-- Settles O20: each of the four breaks what an acceptable record holds. -/
theorem restoreRefusesABadRecord : Obligations.RestoreRefusesABadRecord := by
  unfold Obligations.RestoreRefusesABadRecord
  intro s r hs hr hbad
  refine exec_restore_refused hs hr fun hacceptable => ?_
  obtain ⟨hversion, hactive, hready, hposition⟩ := acceptable_iff.1 hacceptable
  obtain h | h | h | ⟨g, hg, htransfer, h⟩ := hbad
  · exact h hversion
  · exact h hactive
  · exact h hready
  · exact h (hposition g hg htransfer).1

/-! ## RESTORE after SAVE -/

/-- A transfer's position in its rectangle is in the ranges, with something left to move. -/
theorem Geom.PositionOk.acceptable {g : Geom} (h : g.PositionOk) :
    g.InRanges ∧ g.nx ≠ 0 ∧ g.anx ≠ 0 ∧ g.ny ≠ 0 := by
  obtain ⟨⟨hasx, hasx'⟩, ⟨hadx, hadx'⟩, ⟨hsy, hsy'⟩, hdy⟩ := h.range
  obtain ⟨hanx, hnx, hny⟩ := h.pending
  exact ⟨⟨hasx, hasx', hadx, hadx', hsy, hsy', hdy⟩, Fin.pos_iff_ne_zero.1 (hanx.trans hnx),
    Fin.pos_iff_ne_zero.1 hanx, Fin.pos_iff_ne_zero.1 hny⟩

/-- The record of an engine between two calls is acceptable. -/
theorem State.Inv.record_acceptable (h : s.Inv) : s.record.acceptable = true := by
  obtain ⟨hactive, hready, -, htransfer⟩ := h.engine
  have hce : statusCe s.status = s.geom.isSome := (statusCe_statusByte ..).trans hactive
  have htr : statusTr s.status = transferActive s.geom := (statusTr_statusByte ..).trans hready
  exact acceptable_iff.2 ⟨rfl, hce, (Bool.eq_iff_iff.1 htr).trans transferActive_iff,
    fun g hg _ => (htransfer g hg).2.acceptable⟩

/-- Loading the record of a state gives back its engine. -/
theorem load_record (u s : State) : u.load s.record = { u with
    regs := s.regs
    tr := s.tr
    bd := s.bd
    ce := s.ce
    borderX := s.borderX
    mode := s.mode
    geom := s.geom
    lastCost := s.lastCost } := by
  simp [State.load, State.record, State.status]

/-- Settles O22: SAVE takes an acceptable record, and RESTORE loads it. -/
theorem restoreAfterSaveRecoversTheEngine : Obligations.RestoreAfterSaveRecoversTheEngine := by
  unfold Obligations.RestoreAfterSaveRecoversTheEngine
  intro s hs hinv
  refine ⟨_, exec_of_unmarked (i := .save) rfl hs, fun u hu hsaved => ?_⟩
  rw [exec_restore_accepted hu hsaved hinv.record_acceptable, load_record]

end Sys2Proof.Machine
end

section
/-! PROOFS. No host call reads the virtual time or the inputs to come. -/

namespace Sys2Proof.Machine

/-! ## The virtual time and the later inputs (40_dispatch.md R120)

Every operation commutes with replacing the time and the inputs to come. -/

/-- The state at another time, with other inputs to come. -/
def State.atTime (time : Nat) (rest : List Input) (s : State) : State :=
  { s with time := time, inbox := rest }

variable {time : Nat} {rest : List Input} {s : State}

@[simp] theorem atTime_mode : (s.atTime time rest).mode = s.mode := rfl
@[simp] theorem atTime_geom : (s.atTime time rest).geom = s.geom := rfl
@[simp] theorem atTime_refused : (s.atTime time rest).refused = s.refused := rfl
@[simp] theorem atTime_fault : (s.atTime time rest).fault = s.fault := rfl
@[simp] theorem atTime_vram : (s.atTime time rest).vram = s.vram := rfl
@[simp] theorem atTime_saved : (s.atTime time rest).saved = s.saved := rfl
@[simp] theorem atTime_params : (s.atTime time rest).params = s.params := rfl
@[simp] theorem atTime_draws : (s.atTime time rest).draws = s.draws := rfl

/-- The operation gives the same state whatever the time and the inputs to come, which it keeps. -/
def TimeFree (f : State → State) : Prop :=
  ∀ time rest s, f (s.atTime time rest) = (f s).atTime time rest

theorem TimeFree.comp {f g : State → State} (hf : TimeFree f) (hg : TimeFree g) :
    TimeFree fun s => f (g s) :=
  fun time rest s => (congrArg f (hg time rest s)).trans (hf time rest (g s))

/-- A choice by what the time and the inputs do not decide. -/
theorem TimeFree.ite {c : State → Prop} [DecidablePred c] {f g : State → State}
    (hc : ∀ time rest s, c (s.atTime time rest) ↔ c s) (hf : TimeFree f) (hg : TimeFree g) :
    TimeFree fun s => if c s then f s else g s := by
  intro time rest s
  by_cases h : c s
  · simpa only [hc, if_pos h] using hf time rest s
  · simpa only [hc, if_neg h] using hg time rest s

theorem TimeFree.loop {n : Nat} {body : Nat → State → State} (h : ∀ i, TimeFree (body i)) :
    TimeFree (forUpTo n body) := by
  intro time rest s
  refine forUpTo_related (r := fun t u : State => t = u.atTime time rest) rfl fun i t u ht => ?_
  rw [ht, h i]

/-! ### The shared operations -/

theorem timeFree_finish : TimeFree State.finish := fun _ _ _ => rfl

theorem timeFree_cost (k : CostClass) : TimeFree (State.cost · k) := fun _ _ _ => rfl

theorem timeFree_setPixel (l : Layout) (x y : Int) (c : Byte) (lo : BitVec 4) :
    TimeFree (State.setPixel · l x y c lo) := by
  intro time rest s
  simp only [State.setPixel, atTime_vram, atTime_params, atTime_draws]
  split
  · rfl
  · split <;> rfl

theorem timeFree_refuse (r : RefuseReason) : TimeFree (State.refuse · r) := fun _ _ _ => rfl

theorem timeFree_advance (move : Geom → Geom) : TimeFree (State.advance · move) := by
  intro time rest s
  simp only [State.advance, atTime_geom]
  split
  · rfl
  · split <;> rfl

/-! ### Transfer steps and RESTORE -/

theorem timeFree_lmcmStep (g : Geom) : TimeFree (lmcmStep g) := fun time rest s =>
  timeFree_advance _ time rest ((s.cost .lmcm).reply (s.getPixel g.gl g.asx g.sy))

theorem timeFree_lmmcStep (g : Geom) (v : Byte) : TimeFree (lmmcStep g v) :=
  (timeFree_advance _).comp ((timeFree_setPixel _ _ _ _ _).comp (timeFree_cost _))

theorem timeFree_hmmcStep (g : Geom) (v : Byte) : TimeFree (hmmcStep g v) := fun time rest s =>
  timeFree_advance _ time rest ((s.cost .hmmc).writeByteAt g.gl g.adx g.dy v)

theorem timeFree_readPixel : TimeFree readPixel := by
  have hactive (g : Geom) : TimeFree fun s =>
      if s.ce ∧ g.cm = .lmcm then lmcmStep g s else s.raiseFault .pixelReadWhenInactive :=
    .ite (fun _ _ _ => .rfl) (timeFree_lmcmStep g) fun _ _ _ => rfl
  intro time rest s
  unfold readPixel
  rw [atTime_geom]
  split
  · rfl
  · exact hactive _ time rest s

theorem timeFree_pixelWrite (v : Byte) : TimeFree (pixelWrite v) := by
  have hactive (g : Geom) : TimeFree fun s =>
      if s.ce ∧ g.cm = .lmmc then lmmcStep g v s
      else if s.ce ∧ g.cm = .hmmc then hmmcStep g v s
      else s :=
    .ite (fun _ _ _ => .rfl) (timeFree_lmmcStep g v) <|
      .ite (fun _ _ _ => .rfl) (timeFree_hmmcStep g v) fun _ _ _ => rfl
  intro time rest s
  unfold pixelWrite
  rw [atTime_geom]
  split
  · rfl
  · exact hactive _ time rest s

theorem timeFree_restoreSaved : TimeFree restoreSaved := by
  intro time rest s
  simp only [restoreSaved, atTime_saved]
  split
  · split <;> rfl
  · rfl

/-! ### Handlers -/

theorem timeFree_lineFrom (g : Geom) (maj : Bool) (n : Nat) (p : LinePos) :
    TimeFree (lineFrom g maj n p) := by
  have hpixel (p : LinePos) : TimeFree fun s => (s.cost .line).setPixel g.gl p.x p.y g.cl g.lo :=
    (timeFree_setPixel _ _ _ _ _).comp (timeFree_cost _)
  induction n generalizing p with
  | zero => exact hpixel p
  | succ n ih => exact (ih _).comp (hpixel p)

theorem timeFree_line (g : Geom) : TimeFree (line g) := fun time rest s =>
  timeFree_finish.comp (timeFree_lineFrom g s.regs.maj _ _) time rest s

theorem timeFree_logicalFill (g : Geom) : TimeFree (logicalFill g) :=
  timeFree_finish.comp <| .loop fun _ => .loop fun _ =>
    (timeFree_setPixel _ _ _ _ _).comp (timeFree_cost _)

theorem timeFree_logicalCopy (g : Geom) : TimeFree (logicalCopy g) :=
  timeFree_finish.comp <| .loop fun _ => .loop fun _ time rest s =>
    timeFree_setPixel _ _ _ _ _ time rest (s.cost .lmmm)

theorem timeFree_byteFill (g : Geom) : TimeFree (byteFill g) :=
  .ite (fun _ _ _ => .rfl) timeFree_finish <|
    timeFree_finish.comp <| .loop fun _ => .loop fun _ _ _ _ => rfl

theorem timeFree_byteCopy (g : Geom) : TimeFree (byteCopy g) :=
  .ite (fun _ _ _ => .rfl) timeFree_finish <|
    timeFree_finish.comp <| .loop fun _ => .loop fun _ _ _ _ => rfl

theorem timeFree_columnCopy (g : Geom) : TimeFree (columnCopy g) :=
  timeFree_finish.comp <| .loop fun _ => .loop fun _ _ _ _ => rfl

theorem timeFree_hmmcStart (g : Geom) : TimeFree (hmmcStart g) :=
  .ite (fun _ _ _ => .rfl) (fun _ _ _ => rfl) fun _ _ _ => rfl

theorem timeFree_readyForTransfer (_ : Geom) : TimeFree State.readyForTransfer := fun _ _ _ => rfl

theorem timeFree_noHandler (g : Geom) : TimeFree (noHandler g) := fun _ _ _ => rfl

theorem timeFree_searchFrom (g : Geom) (eq : Bool) (n : Nat) (x : Int) :
    TimeFree (searchFrom g eq n x) := by
  intro time rest s
  induction n generalizing x s with
  | zero => rfl
  | succ n ih =>
    have hpixel : ((s.atTime time rest).cost .srch).getPixel g.gl x g.sy =
        (s.cost .srch).getPixel g.gl x g.sy := rfl
    simp only [searchFrom, hpixel]
    split
    · split
      · rfl
      · exact ih _ (s.cost .srch)
    · rfl

theorem timeFree_search (g : Geom) : TimeFree (search g) := fun time rest s =>
  timeFree_searchFrom g s.regs.eq _ _ time rest s

/-! ### Starts -/

theorem timeFree_beginOperation (op : Opcode) (lo : BitVec 4) {handler : Geom → State → State}
    (h : ∀ g, TimeFree (handler g)) : TimeFree (State.beginOperation · op lo handler) := by
  have hlayout (g : Geom) : TimeFree fun s =>
      let s := { s with tr := false, geom := some g, ce := true }
      if op.isRectangle ∧ (g.nx.val = 0 ∨ g.ny.val = 0) then s.finish else handler g s :=
    .ite (fun _ _ _ => .rfl) (fun _ _ _ => rfl) fun time rest s =>
      h g time rest { s with tr := false, geom := some g, ce := true }
  intro time rest s
  dsimp only [State.beginOperation, atTime_mode]
  split
  · rfl
  · exact hlayout _ time rest s

theorem timeFree_start (op : Opcode) (lo : BitVec 4) {handler : Geom → State → State}
    (h : ∀ g, TimeFree (handler g)) : TimeFree (State.start · op lo handler) := by
  have hended : TimeFree fun s => if s.ce then s.finish else s :=
    .ite (fun _ _ _ => .rfl) timeFree_finish fun _ _ _ => rfl
  have hnoop : TimeFree State.noopStart := fun time rest s =>
    congrArg (fun t => { t with lastCost := 0 }) (hended time rest s)
  have hchecked : TimeFree fun s =>
      if op.isNoop then s.noopStart
      else if s.ce ∧ s.params.restartPolicy = .refuse then s.refuse .restartWhileActive
      else (if s.ce then s.finish else s).beginOperation op lo handler :=
    .ite (fun _ _ _ => .rfl) hnoop <|
      .ite (fun _ _ _ => .rfl) (timeFree_refuse _) ((timeFree_beginOperation op lo h).comp hended)
  exact fun time rest s => hchecked time rest (s.writeReg 14 (commandByte op lo))

/-! ### Every host call -/

theorem timeFree_effect : ∀ i, TimeFree (effect i)
  | .wrSxl _ | .wrSxh _ | .wrSyl _ | .wrSyh _ | .wrDxl _ | .wrDxh _ | .wrDyl _ | .wrDyh _
  | .wrNxl _ | .wrNxh _ | .wrNyl _ | .wrNyh _ | .wrArg _ | .wr15 _ | .rs | .mode _ | .vnote
  | .save | .reservedKind7 | .reservedKinds8F => fun _ _ _ => rfl
  | .wrClr v => fun time rest s => timeFree_pixelWrite v time rest (s.writeReg 12 v)
  | .rp => timeFree_readPixel
  | .restore => timeFree_restoreSaved
  | .cmdStop lo => timeFree_start .stop lo timeFree_noHandler
  | .cmdUnknown1 lo => timeFree_start .unknown1 lo timeFree_noHandler
  | .cmdUnknown2 lo => timeFree_start .unknown2 lo timeFree_noHandler
  | .cmdUnknown3 lo => timeFree_start .unknown3 lo timeFree_noHandler
  | .cmdUnknown4 lo => timeFree_start .unknown4 lo timeFree_noHandler
  | .cmdUnknown5 lo => timeFree_start .unknown5 lo timeFree_noHandler
  | .cmdSrch lo => timeFree_start .srch lo timeFree_search
  | .cmdLine lo => timeFree_start .line lo timeFree_line
  | .cmdLmmv lo => timeFree_start .lmmv lo timeFree_logicalFill
  | .cmdLmmm lo => timeFree_start .lmmm lo timeFree_logicalCopy
  | .cmdLmcm lo => timeFree_start .lmcm lo timeFree_readyForTransfer
  | .cmdLmmc lo => timeFree_start .lmmc lo timeFree_readyForTransfer
  | .cmdHmmv lo => timeFree_start .hmmv lo timeFree_byteFill
  | .cmdHmmm lo => timeFree_start .hmmm lo timeFree_byteCopy
  | .cmdYmmm lo => timeFree_start .ymmm lo timeFree_columnCopy
  | .cmdHmmc lo => timeFree_start .hmmc lo timeFree_hmmcStart

theorem TimeFree.hostCall {f : State → State} (h : TimeFree f) (time : Nat) (rest : List Input)
    (s : State) :
    hostCall (s.atTime time rest) f = mapNext (State.atTime time rest) (hostCall s f) := by
  simp only [Machine.hostCall, atTime_fault, atTime_refused]
  split
  · rfl
  · rfl
  · exact congrArg Host.Outcome.next (h time rest s)

/-- Settles O59: every effect commutes with replacing the time and the inputs to come, and neither
mark is theirs. -/
theorem virtualTimeIsNotRead : Obligations.VirtualTimeIsNotRead := by
  unfold Obligations.VirtualTimeIsNotRead
  intro i s time rest
  cases hi : i.wellFormed with
  | true =>
    rw [exec_eq_hostCall hi, exec_eq_hostCall hi]
    exact (timeFree_effect i).hostCall time rest s
  | false => rw [exec_of_not_wellFormed hi, exec_of_not_wellFormed hi]; rfl

end Sys2Proof.Machine
end

section
/-! PROOFS. The calls that leave VRAM and the draws alone. -/

namespace Sys2Proof.Machine

variable {s : State}

/-! ## Calls that leave VRAM and the draws alone (41_search.md R141, 40_dispatch.md R107, R111) -/

theorem SameVideo.trans {t u : State} (h : SameVideo s t) (h' : SameVideo t u) : SameVideo s u :=
  ⟨h.vram.trans h'.vram, h.draws.trans h'.draws, h.params.trans h'.params⟩

theorem search_sameVideo (g : Geom) (s : State) : SameVideo (search g s) s := by
  obtain ⟨b, x, c, he⟩ := search_completed g s
  rw [he]
  exact ⟨rfl, rfl, rfl⟩

theorem hmmcStart_sameVideo (g : Geom) (s : State) : SameVideo (hmmcStart g s) s := by
  unfold hmmcStart
  dsimp only
  split <;> exact ⟨rfl, rfl, rfl⟩

theorem advance_sameVideo (s : State) (move : Geom → Geom) : SameVideo (s.advance move) s := by
  rw [advance_eq]
  exact ⟨rfl, rfl, rfl⟩

theorem readPixel_sameVideo (s : State) : SameVideo (readPixel s) s := by
  obtain he | ⟨g, -, -, he⟩ := readPixel_cases s <;> rw [he]
  · exact ⟨rfl, rfl, rfl⟩
  · exact (advance_sameVideo _ _).trans ⟨rfl, rfl, rfl⟩

theorem restoreSaved_sameVideo (s : State) : SameVideo (restoreSaved s) s := by
  obtain he | ⟨r, -, he⟩ := restoreSaved_cases s <;> rw [he] <;> exact ⟨rfl, rfl, rfl⟩

/-- A start changes VRAM and the draws only by its handler. -/
theorem start_sameVideo (s : State) (op : Opcode) (lo : BitVec 4)
    {handler : Geom → State → State} (h : ∀ g t, SameVideo (handler g t) t) :
    SameVideo (s.start op lo handler) s := by
  cases hop : op.isNoop with
  | true => rw [start_noop hop]; exact ⟨rfl, rfl, rfl⟩
  | false =>
    obtain he | he | ⟨l, -, he | ⟨-, he⟩⟩ := start_cases (s := s) (lo := lo) (handler := handler) hop
      <;> rw [he]
    · exact ⟨rfl, rfl, rfl⟩
    · exact ⟨rfl, rfl, rfl⟩
    · exact ⟨rfl, rfl, rfl⟩
    · exact (h (snapshot op lo l s.regs) (s.running op lo l)).trans ⟨rfl, rfl, rfl⟩

theorem effect_sameVideo (s : State) : ∀ i, mayStore i = false → SameVideo (effect i s) s
  | .wrSxl _, _ | .wrSxh _, _ | .wrSyl _, _ | .wrSyh _, _ | .wrDxl _, _ | .wrDxh _, _
  | .wrDyl _, _ | .wrDyh _, _ | .wrNxl _, _ | .wrNxh _, _ | .wrNyl _, _ | .wrNyh _, _
  | .wrArg _, _ | .wr15 _, _ | .rs, _ | .mode _, _ | .vnote, _ | .save, _ | .reservedKind7, _
  | .reservedKinds8F, _ => ⟨rfl, rfl, rfl⟩
  | .rp, _ => readPixel_sameVideo s
  | .restore, _ => restoreSaved_sameVideo s
  | .cmdStop lo, _ => start_sameVideo s .stop lo fun _ => SameVideo.refl
  | .cmdUnknown1 lo, _ => start_sameVideo s .unknown1 lo fun _ => SameVideo.refl
  | .cmdUnknown2 lo, _ => start_sameVideo s .unknown2 lo fun _ => SameVideo.refl
  | .cmdUnknown3 lo, _ => start_sameVideo s .unknown3 lo fun _ => SameVideo.refl
  | .cmdUnknown4 lo, _ => start_sameVideo s .unknown4 lo fun _ => SameVideo.refl
  | .cmdUnknown5 lo, _ => start_sameVideo s .unknown5 lo fun _ => SameVideo.refl
  | .cmdSrch lo, _ => start_sameVideo s .srch lo search_sameVideo
  | .cmdLmcm lo, _ => start_sameVideo s .lmcm lo fun _ _ => ⟨rfl, rfl, rfl⟩
  | .cmdLmmc lo, _ => start_sameVideo s .lmmc lo fun _ _ => ⟨rfl, rfl, rfl⟩
  | .cmdHmmc lo, _ => start_sameVideo s .hmmc lo hmmcStart_sameVideo

/-- Settles O37, call by call. -/
theorem otherCallsLeaveVramAlone : Obligations.OtherCallsLeaveVramAlone := by
  unfold Obligations.OtherCallsLeaveVramAlone
  intro i s t hstore hexec
  obtain ⟨-, -, rfl⟩ := exec_eq_next.1 hexec
  have hvideo := effect_sameVideo s i hstore
  exact ⟨hvideo.vram, hvideo.draws⟩

end Sys2Proof.Machine
end

section
/-! PROOFS. SRCH records the first matching pixel, or the edge of the row. -/

namespace Sys2Proof.Machine

variable {s : State}

/-! ## Charging a cost several times (40_dispatch.md R122, R123) -/

/-- The state after `n` costs of class `k`. -/
def State.charged (s : State) (k : CostClass) (n : Nat) : State :=
  { s with geom := s.geom.map fun g => { g with opc := g.opc + n * Config.costTable k g.gl s.blank } }

theorem charged_zero (s : State) (k : CostClass) : s.charged k 0 = s := (Drawn.refl k s).symm

theorem cost_charged (s : State) (k : CostClass) (n : Nat) :
    (s.charged k n).cost k = s.charged k (n + 1) :=
  Drawn.cost (s := s) (t := s.charged k n) rfl

theorem charged_counter {g : Geom} (h : s.geom = some g) (k : CostClass) (n : Nat) :
    (s.charged k n).counter = g.opc + n * Config.costTable k g.gl s.blank :=
  by
  rw [counter_of_geom (g := { g with opc := g.opc + n * Config.costTable k g.gl s.blank })]
  simp [State.charged, h]

/-! ## The columns a search tests (41_search.md R141, R143) -/

/-- Column `k` of a search, counted from its start column. -/
def Geom.searchColumn (g : Geom) (k : Nat) : Int := g.sx % g.mx.toNat + k * g.tx.toInt

/-- How many columns lie from the start column to the edge in direction TX. -/
def Geom.searchCount (g : Geom) : Nat :=
  match g.tx with
  | .plus => g.mx.toNat - (g.sx % g.mx.toNat).toNat
  | .minus => (g.sx % g.mx.toNat).toNat + 1

theorem searchStart_range (g : Geom) : 0 ≤ g.sx % g.mx.toNat ∧ g.sx % g.mx.toNat < g.mx.toNat := by
  have hmx : (0 : Int) < g.mx.toNat := by cases g.mx <;> decide
  exact ⟨Int.emod_nonneg _ hmx.ne', Int.emod_lt_of_pos _ hmx⟩

theorem searchCount_le (g : Geom) : g.searchCount ≤ g.mx.toNat := by
  have hstart := searchStart_range g
  unfold Geom.searchCount
  split <;> omega

/-- The columns inside the width are the first `searchCount`. -/
theorem searchColumn_in_width_iff (g : Geom) (k : Nat) :
    0 ≤ g.searchColumn k ∧ g.searchColumn k < g.mx.toNat ↔ k < g.searchCount := by
  have hstart := searchStart_range g
  unfold Geom.searchColumn Geom.searchCount
  cases g.tx <;> simp only [Dir.toInt] <;> omega

theorem searchColumn_succ (g : Geom) (k : Nat) :
    g.searchColumn k + g.tx.toInt = g.searchColumn (k + 1) := by
  unfold Geom.searchColumn
  push_cast
  ring

/-- The first column outside the width, by the direction. -/
theorem searchColumn_searchCount (g : Geom) :
    g.searchColumn g.searchCount = match g.tx with
      | .plus => (g.mx.toNat : Int)
      | .minus => -1 := by
  have hstart := searchStart_range g
  unfold Geom.searchColumn Geom.searchCount
  cases g.tx <;> simp only [Dir.toInt] <;> omega

/-! ## The scan (41_search.md R141, R142, R144) -/

/-- The test of column `k` succeeds: the pixel has the cut colour, or has not, as EQ asks. -/
def Geom.Matches (g : Geom) (eq : Bool) (s : State) (k : Nat) : Prop :=
  s.getPixel g.gl (g.searchColumn k) g.sy = g.cl &&& g.gl.pixelMask ↔ eq = false

theorem matches_iff_xor (g : Geom) (eq : Bool) (s : State) (k : Nat) :
    g.Matches eq s k ↔
      xor (s.getPixel g.gl (g.searchColumn k) g.sy = g.cl &&& g.gl.pixelMask) eq = true := by
  unfold Geom.Matches
  cases eq <;> simp

theorem searchMiss_lastInRange {g : Geom} {x : Int} (h : s.params.srchEdgeX = .lastInRange) :
    (searchMiss g x s).borderX = x - g.tx.toInt := by
  simp [searchMiss, h]

theorem searchMiss_firstOutOfRange {g : Geom} {x : Int}
    (h : s.params.srchEdgeX = .firstOutOfRange) : (searchMiss g x s).borderX = x := by
  simp [searchMiss, h]

/-- A scan that stands on a matching column charges it and records it. -/
theorem searchFrom_of_match {g : Geom} {eq : Bool} {k : Nat} (hk : k < g.searchCount)
    (hmatch : g.Matches eq s k) (n : Nat) :
    searchFrom g eq (n + 1) (g.searchColumn k) s =
      State.finish { s.cost .srch with bd := true, borderX := g.searchColumn k } := by
  rw [searchFrom, if_pos ((searchColumn_in_width_iff g k).2 hk)]
  exact if_pos ((matches_iff_xor g eq s k).1 hmatch)

/-- A scan that stands on another column charges it and moves on. -/
theorem searchFrom_of_not_match {g : Geom} {eq : Bool} {k : Nat} (hk : k < g.searchCount)
    (hmatch : ¬ g.Matches eq s k) (n : Nat) :
    searchFrom g eq (n + 1) (g.searchColumn k) s =
      searchFrom g eq n (g.searchColumn (k + 1)) (s.cost .srch) := by
  rw [searchFrom, if_pos ((searchColumn_in_width_iff g k).2 hk), ← searchColumn_succ]
  exact if_neg (mt (matches_iff_xor g eq s k).2 hmatch)

/-- A scan that has left the width ends without a match. -/
theorem searchFrom_outside (g : Geom) (eq : Bool) (n : Nat) (s : State) :
    searchFrom g eq n (g.searchColumn g.searchCount) s =
      searchMiss g (g.searchColumn g.searchCount) s := by
  cases n with
  | zero => rfl
  | succ n =>
    have hout := mt (searchColumn_in_width_iff g g.searchCount).1 (lt_irrefl _)
    rw [searchFrom, if_neg hout]

/-- A scan passes over the columns that do not match, and charges each. -/
theorem searchFrom_passes {g : Geom} {eq : Bool} {k : Nat} (hk : k ≤ g.searchCount)
    (hmiss : ∀ j, j < k → ¬ g.Matches eq s j) (n : Nat) :
    searchFrom g eq (k + n) (g.searchColumn 0) s =
      searchFrom g eq n (g.searchColumn k) (s.charged .srch k) := by
  induction k generalizing n with
  | zero => rw [charged_zero, Nat.zero_add]
  | succ k ih =>
    have hnext : ¬ g.Matches eq (s.charged .srch k) k := hmiss k k.lt_succ_self
    rw [Nat.add_right_comm, Nat.add_assoc,
      ih (Nat.le_of_succ_le hk) (fun j hj => hmiss j (Nat.lt_succ_of_lt hj)),
      searchFrom_of_not_match hk hnext, cost_charged]

theorem search_eq_searchFrom (g : Geom) (s : State) :
    search g s = searchFrom g s.regs.eq g.mx.toNat (g.searchColumn 0) s := by
  simp [search, Geom.searchColumn]

/-- A search whose first match is column `k`. -/
theorem search_of_first_match {g : Geom} {k : Nat} (hk : k < g.searchCount)
    (hmatch : g.Matches s.regs.eq s k) (hmiss : ∀ j, j < k → ¬ g.Matches s.regs.eq s j) :
    search g s =
      State.finish { s.charged .srch (k + 1) with bd := true, borderX := g.searchColumn k } := by
  obtain ⟨n, hn⟩ : ∃ n, g.mx.toNat = k + (n + 1) :=
    Nat.exists_eq_add_of_lt (hk.trans_le (searchCount_le g))
  have hhere : g.Matches s.regs.eq (s.charged .srch k) k := hmatch
  rw [search_eq_searchFrom, hn, searchFrom_passes hk.le hmiss, searchFrom_of_match hk hhere,
    cost_charged]

/-- A search in which no column matches. -/
theorem search_of_no_match {g : Geom} (hmiss : ∀ j, j < g.searchCount → ¬ g.Matches s.regs.eq s j) :
    search g s =
      searchMiss g (g.searchColumn g.searchCount) (s.charged .srch g.searchCount) := by
  obtain ⟨n, hn⟩ := Nat.exists_eq_add_of_le (searchCount_le g)
  rw [search_eq_searchFrom, hn, searchFrom_passes le_rfl hmiss, searchFrom_outside]

/-! ## The start of a search -/

theorem effect_cmdSrch {l : Layout} (hmode : s.mode = .layout l)
    (hpolicy : s.ce = false ∨ s.params.restartPolicy = .abort) (lo : BitVec 4) :
    effect (.cmdSrch lo) s = search (snapshot .srch lo l s.regs) (s.running .srch lo l) :=
  start_runs (op := .srch) rfl hpolicy hmode nofun

/-- The command byte leaves the polarity bit alone. -/
theorem running_regs_eq (s : State) (op : Opcode) (lo : BitVec 4) (l : Layout) :
    (s.running op lo l).regs.eq = s.regs[13].getLsbD 1 := by
  simp [State.running, State.ended, Regs.eq]

theorem snapshot_tx (op : Opcode) (lo : BitVec 4) (l : Layout) (r : Regs) :
    (snapshot op lo l r).tx = dirOfBit (r[13].getLsbD 2) := rfl

theorem snapshot_tx_toInt (op : Opcode) (lo : BitVec 4) (l : Layout) (r : Regs) :
    (snapshot op lo l r).tx.toInt = xStep r :=
  dirOfBit_toInt (r[13].getLsbD 2)

theorem snapshot_searchColumn (op : Opcode) (lo : BitVec 4) (l : Layout) (r : Regs) (k : Nat) :
    (snapshot op lo l r).searchColumn k =
      (r.sx.toNat : Int) % l.pageWidth.toNat + k * xStep r := by
  rw [Geom.searchColumn, snapshot_tx_toInt]
  rfl

theorem snapshot_searchCount (op : Opcode) (lo : BitVec 4) (l : Layout) (r : Regs) :
    (snapshot op lo l r).searchCount =
      if r[13].getLsbD 2 then ((r.sx.toNat : Int) % l.pageWidth.toNat).toNat + 1
      else l.pageWidth.toNat - ((r.sx.toNat : Int) % l.pageWidth.toNat).toNat := by
  rw [Geom.searchCount, snapshot_tx]
  cases r[13].getLsbD 2 <;> rfl

theorem snapshot_searchEdge (op : Opcode) (lo : BitVec 4) (l : Layout) (r : Regs) :
    (snapshot op lo l r).searchColumn (snapshot op lo l r).searchCount =
      if r[13].getLsbD 2 then -1 else (l.pageWidth.toNat : Int) := by
  rw [searchColumn_searchCount, snapshot_tx]
  cases r[13].getLsbD 2 <;> rfl

/-- The edge a search without a match records, from the registers (41_search.md R142). -/
theorem searchMiss_snapshot_borderX (op : Opcode) (lo : BitVec 4) (l : Layout) (r : Regs)
    (s : State) :
    (searchMiss (snapshot op lo l r)
      ((snapshot op lo l r).searchColumn (snapshot op lo l r).searchCount) s).borderX =
      match s.params.srchEdgeX with
      | .lastInRange => if r[13].getLsbD 2 then 0 else (l.pageWidth.toNat : Int) - 1
      | .firstOutOfRange => if r[13].getLsbD 2 then -1 else (l.pageWidth.toNat : Int) := by
  rw [snapshot_searchEdge]
  cases hedge : s.params.srchEdgeX with
  | lastInRange =>
    rw [searchMiss_lastInRange hedge, snapshot_tx_toInt, xStep]
    split <;> rfl
  | firstOutOfRange => exact searchMiss_firstOutOfRange hedge

/-- Settles O38: the scan passes over the columns before the first match, or over all. -/
theorem searchRecordsTheFirstMatch : Obligations.SearchRecordsTheFirstMatch := by
  unfold Obligations.SearchRecordsTheFirstMatch
  rintro s l lo ⟨hs, hmode, hpolicy⟩
  refine ⟨_, exec_of_unmarked rfl hs, (effect_sameVideo s (.cmdSrch lo) rfl).vram, ?_⟩
  rw [effect_cmdSrch hmode hpolicy, ← snapshot_searchCount .srch lo]
  simp only [← snapshot_searchColumn .srch lo, ← running_regs_eq s .srch lo l]
  have hcost (n : Nat) : ((s.running .srch lo l).charged .srch n).counter =
      n * Config.costTable .srch l s.blank :=
    (charged_counter rfl .srch n).trans (Nat.zero_add _)
  constructor
  · intro k hk hmatch hmiss
    rw [search_of_first_match (s := s.running .srch lo l) hk hmatch hmiss]
    exact ⟨rfl, rfl, hcost (k + 1)⟩
  · intro hmiss
    rw [search_of_no_match (s := s.running .srch lo l) hmiss]
    exact ⟨rfl, hcost _, searchMiss_snapshot_borderX .srch lo l s.regs _⟩

end Sys2Proof.Machine
end

section
/-! PROOFS. LINE draws the Bresenham points of its closed form. -/

namespace Sys2Proof.Machine

/-! ## The closed form of the stepping (42_line.md R151, R153, R155) -/

/-- How far the minor axis has moved after `k` steps of the major axis. -/
def minorSteps (nx ny k : Nat) : Nat := if nx < ny then k else (k * ny + nx / 2) / nx

/-- The error term after `k` steps: NY off it for each, and NX put back for each step of the minor axis. -/
def lineError (nx ny k : Nat) : Int := ((nx : Int) - 1) / 2 + minorSteps nx ny k * nx - k * ny

theorem minorSteps_zero (nx ny : Nat) : minorSteps nx ny 0 = 0 := by
  unfold minorSteps
  split
  · rfl
  · rw [Nat.zero_mul, Nat.zero_add, Nat.div_div_eq_div_mul, Nat.div_eq_zero_iff]
    omega

/-- While NY is at most NX, the error term is what the division for the minor axis leaves, counted down
from `NX - 1`: it stays within `0 .. NX - 1`. -/
theorem lineError_of_le {nx ny : Nat} (h : ny ≤ nx) (k : Nat) :
    lineError nx ny k = (nx : Int) - 1 - ((k * ny + nx / 2) % nx : Nat) := by
  have hdiv := Nat.div_add_mod' (k * ny + nx / 2) nx
  rw [lineError, minorSteps, if_neg (Nat.not_lt.2 h)]
  omega

/-- With NY above NX, each step lowers the error term, so it never reaches NY. -/
theorem lineError_lt_of_lt {nx ny : Nat} (h : nx < ny) (k : Nat) : lineError nx ny k < ny := by
  have hle : (k : Int) * nx ≤ k * ny := mod_cast Nat.mul_le_mul_left k h.le
  rw [lineError, minorSteps, if_pos h]
  omega

/-- The minor axis moves when the next error term is below 0, as `Line()` decides: with NY at most NX,
that is when the remainder and NY together reach NX, and the quotient goes up by one. -/
theorem minorSteps_succ {nx : Nat} (hnx : 0 < nx) (ny k : Nat) :
    minorSteps nx ny (k + 1) =
      if lineError nx ny k < ny then minorSteps nx ny k + 1 else minorSteps nx ny k := by
  by_cases h : nx < ny
  · rw [if_pos (lineError_lt_of_lt h k), minorSteps, minorSteps, if_pos h, if_pos h]
  · have hmod := Nat.mod_lt (k * ny + nx / 2) hnx
    have hdiv := Nat.div_add_mod' (k * ny + nx / 2) nx
    rw [lineError_of_le (Nat.not_lt.1 h), minorSteps, minorSteps, if_neg h, if_neg h]
    split
    all_goals
      refine Nat.div_eq_of_lt_le ?_ ?_
      all_goals
        simp only [Nat.succ_mul]
        omega

theorem lineError_succ {nx : Nat} (hnx : 0 < nx) (ny k : Nat) :
    lineError nx ny (k + 1) = if lineError nx ny k < ny then lineError nx ny k - ny + nx
      else lineError nx ny k - ny := by
  conv_lhs => rw [lineError, minorSteps_succ hnx]
  split <;> (rw [lineError]; push_cast; ring)

/-- Point `k` of a line, before wrapping. -/
def Geom.linePoint (g : Geom) (maj : Bool) (k : Nat) : Int × Int :=
  if maj then (g.dx + minorSteps g.nx g.ny k * g.tx.toInt, g.dy + k * g.ty.toInt)
  else (g.dx + k * g.tx.toInt, g.dy + minorSteps g.nx g.ny k * g.ty.toInt)

/-- The local variables of `Line()` after `k` steps. -/
def Geom.linePos (g : Geom) (maj : Bool) (k : Nat) : LinePos :=
  { x := (g.linePoint maj k).1, y := (g.linePoint maj k).2, e := lineError g.nx g.ny k }

theorem lineStart_eq_linePos (g : Geom) (maj : Bool) : lineStart g = g.linePos maj 0 := by
  simp [lineStart, Geom.linePos, Geom.linePoint, lineError, minorSteps_zero]

/-- `Line()` steps from point to point, whichever axis is the major one and whether the minor one moves. -/
theorem linePos_next {g : Geom} (hnx : 0 < g.nx.val) (maj : Bool) (k : Nat) :
    (g.linePos maj k).next g maj = g.linePos maj (k + 1) := by
  have hbelow : lineError g.nx g.ny k - g.ny.val < 0 ↔ lineError g.nx g.ny k < g.ny.val := sub_neg
  simp only [LinePos.next, Geom.linePos, Geom.linePoint, hbelow, minorSteps_succ hnx, lineError_succ hnx]
  by_cases hmove : lineError g.nx g.ny k < g.ny.val <;> cases maj <;>
    simp [hmove, add_one_mul, add_assoc]

/-! ## Drawing a list of points -/

/-- SetPixel at each of the points, in order. -/
def State.setPixels (s : State) (l : Layout) (c : Byte) (lo : BitVec 4) (points : List (Int × Int)) :
    State :=
  points.foldl (fun u p => u.setPixel l p.1 p.2 c lo) s

theorem setPixels_cons (s : State) (l : Layout) (c : Byte) (lo : BitVec 4) (p : Int × Int)
    (points : List (Int × Int)) :
    s.setPixels l c lo (p :: points) = (s.setPixel l p.1 p.2 c lo).setPixels l c lo points := rfl

/-- A byte at the address of none of the points is kept (20_memory.md R59). -/
theorem setPixels_read_of_ne {s : State} (h : Memory.wf s.vram) {l : Layout} {c : Byte}
    {lo : BitVec 4} {points : List (Int × Int)} {a : VramAddr}
    (ha : ∀ p ∈ points, l.address s.params.planarG6G7 p.1 p.2 ≠ a) :
    (s.setPixels l c lo points).vram.read a = s.vram.read a := by
  induction points generalizing s with
  | nil => rfl
  | cons p points ih =>
    obtain ⟨hp, hpoints⟩ := List.forall_mem_cons.1 ha
    rw [setPixels_cons, ih (setPixel_wf h ..) (by rwa [setPixel_params]), setPixel_read_of_ne h hp]

/-- The loop of `Line()`, standing at point `k` with `n` steps to go. -/
theorem lineFrom_sameVideo {g : Geom} {n k : Nat} (hk : k + n ≤ g.nx.val) (maj : Bool)
    {s t : State} (h : SameVideo s t) :
    SameVideo (lineFrom g maj n (g.linePos maj k) s)
      (t.setPixels g.gl g.cl g.lo ((List.range' k (n + 1)).map (g.linePoint maj))) := by
  induction n generalizing k s t with
  | zero => exact (h.cost .line).setPixel ..
  | succ n ih =>
    rw [lineFrom, linePos_next (by omega), List.range'_succ, List.map_cons, setPixels_cons]
    exact ih (by omega) ((h.cost .line).setPixel ..)

/-- `Line()` draws its `NX + 1` points (42_line.md R152). -/
theorem line_sameVideo (g : Geom) {s t : State} (h : SameVideo s t) :
    SameVideo (line g s) (t.setPixels g.gl g.cl g.lo
      ((List.range (g.nx.val + 1)).map (g.linePoint s.regs.maj))) := by
  have hloop := lineFrom_sameVideo (Nat.zero_add g.nx.val).le s.regs.maj h
  rw [← lineStart_eq_linePos, ← List.range_eq_range'] at hloop
  exact ⟨hloop.vram, hloop.draws, hloop.params⟩

/-- The cost is charged once for each point (40_dispatch.md R123). -/
theorem line_lastCost {g g' : Geom} {s : State} (h : s.geom = some g') :
    (line g s).lastCost = g'.opc + (g.nx.val + 1) * Config.costTable .line g'.gl s.blank := by
  obtain ⟨t, hdrawn, he⟩ := line_eq g s
  rw [he, hdrawn.finish, h]

/-! ## The start of a line -/

theorem effect_cmdLine {s : State} {l : Layout} (hmode : s.mode = .layout l)
    (hpolicy : s.ce = false ∨ s.params.restartPolicy = .abort) (lo : BitVec 4) :
    effect (.cmdLine lo) s = line (snapshot .line lo l s.regs) (s.running .line lo l) :=
  start_runs (op := .line) rfl hpolicy hmode nofun

/-- The command byte leaves the major-axis bit alone. -/
theorem running_regs_maj (s : State) (op : Opcode) (lo : BitVec 4) (l : Layout) :
    (s.running op lo l).regs.maj = s.regs.maj := by
  simp [State.running, State.ended, Regs.maj]

theorem snapshot_ty_toInt (op : Opcode) (lo : BitVec 4) (l : Layout) (r : Regs) :
    (snapshot op lo l r).ty.toInt = yStep r :=
  dirOfBit_toInt (r[13].getLsbD 3)

theorem snapshot_linePoint (op : Opcode) (lo : BitVec 4) (l : Layout) (r : Regs) (k : Nat) :
    (snapshot op lo l r).linePoint r.maj k =
      if r[13].getLsbD 0 then
        ((r.dx.toNat : Int) + minorSteps r.nx.toNat r.ny.toNat k * xStep r,
          (r.dy.toNat : Int) + k * yStep r)
      else
        ((r.dx.toNat : Int) + k * xStep r,
          (r.dy.toNat : Int) + minorSteps r.nx.toNat r.ny.toNat k * yStep r) := by
  rw [Geom.linePoint, snapshot_tx_toInt, snapshot_ty_toInt]
  rfl

/-- Settles O40: the loop stands at point `k` of the closed form after `k` steps. -/
theorem lineDrawsTheBresenhamPoints : Obligations.LineDrawsTheBresenhamPoints := by
  unfold Obligations.LineDrawsTheBresenhamPoints
  rintro s l lo ⟨hs, hmode, hpolicy⟩ nx ny minor point points drawn
  have hpoints : (List.range (nx + 1)).map ((snapshot .line lo l s.regs).linePoint s.regs.maj) =
      points := List.map_congr_left fun k _ => snapshot_linePoint .line lo l s.regs k
  have hvideo : SameVideo (effect (.cmdLine lo) s) (s.setPixels l s.regs[12] lo points) := by
    rw [effect_cmdLine hmode hpolicy, ← hpoints, ← running_regs_maj s .line lo l]
    exact line_sameVideo _ ⟨rfl, rfl, rfl⟩
  have hcost : (effect (.cmdLine lo) s).lastCost =
      (nx + 1) * Config.costTable .line l s.blank := by
    rw [effect_cmdLine hmode hpolicy]
    exact (line_lastCost rfl).trans (Nat.zero_add _)
  refine ⟨_, exec_of_unmarked rfl hs, hvideo.vram, hvideo.draws, hcost, fun hwf a ha => ?_⟩
  rw [hvideo.vram]
  exact setPixels_read_of_ne hwf ha

end Sys2Proof.Machine
end

section
/-! PROOFS. The logical transfers LMCM and LMMC: their starts, and each call that moves a pixel. -/

namespace Sys2Proof.Machine

variable {s : State}

/-! ## Starts (43_logical_moves.md R165, R168) -/

/-- A logical transfer that is not degenerate waits on the snapshot (40_dispatch.md R111). -/
theorem start_waits {op : Opcode} (hop : op.isNoop = false) {l : Layout} (hs : s.Starts l)
    (hx : s.regs.nx ≠ 0) (hy : s.regs.ny ≠ 0) (lo : BitVec 4) :
    (s.start op lo fun _ s => s.readyForTransfer) = { s with
      regs := s.regs.set 14 (commandByte op lo)
      tr := true
      ce := true
      geom := some (snapshot op lo l s.regs)
      lastCost := s.endedCost } := by
  obtain ⟨-, hmode, hpolicy⟩ := hs
  rw [start_runs hop hpolicy hmode fun _ => ⟨hx, hy⟩]
  rfl

/-- Settles O29: both are starts whose handler only sets TR. -/
theorem logicalTransferStartsAndWaits : Obligations.LogicalTransferStartsAndWaits := by
  unfold Obligations.LogicalTransferStartsAndWaits
  intro s l lo hs hx hy p hp
  simp only [List.mem_cons, List.not_mem_nil, or_false] at hp
  obtain rfl | rfl := hp
  · exact (exec_of_unmarked rfl hs.1).trans (congrArg _ (start_waits (op := .lmcm) rfl hs hx hy lo))
  · exact (exec_of_unmarked rfl hs.1).trans (congrArg _ (start_waits (op := .lmmc) rfl hs hx hy lo))

/-! ## The active transfer (40_dispatch.md R102, R114, R122) -/

/-- The geometry with one cost of class `k` charged. -/
def Geom.charged (g : Geom) (k : CostClass) (blank : Bool) : Geom :=
  { g with opc := g.opc + Config.costTable k g.gl blank }

theorem cost_geom_of_some {g : Geom} (h : s.geom = some g) (k : CostClass) :
    (s.cost k).geom = some (g.charged k s.blank) := by
  rw [cost_geom, h]
  rfl

theorem readPixel_of_lmcm {g : Geom} (hce : s.ce = true) (hg : s.geom = some g)
    (hcm : g.cm = .lmcm) : readPixel s = lmcmStep g s := by
  simp [readPixel, hg, hce, hcm]

theorem pixelWrite_of_lmmc {g : Geom} (hce : s.ce = true) (hg : s.geom = some g)
    (hcm : g.cm = .lmmc) (v : Byte) : pixelWrite v s = lmmcStep g v s := by
  simp [pixelWrite, hg, hce, hcm]

/-- Settles O44: the step replies with the pixel, and moves on by where it stands in its rectangle. -/
theorem pixelReadDeliversAndMovesOn : Obligations.PixelReadDeliversAndMovesOn := by
  unfold Obligations.PixelReadDeliversAndMovesOn
  intro s g hs hce hg hcm hanx hny p opc
  have hstep : exec .rp s = .next (((s.cost .lmcm).reply p).advance Geom.advanceSource) :=
    (exec_of_unmarked rfl hs).trans (congrArg _ (readPixel_of_lmcm hce hg hcm))
  have hgeom : ((s.cost .lmcm).reply p).geom = some (g.charged .lmcm s.blank) :=
    cost_geom_of_some hg .lmcm
  rw [hstep]
  refine ⟨fun ha => ⟨countDown g.anx, rfl, ?_⟩, fun ha hn => ⟨countDown g.ny, rfl, ?_⟩,
    fun ha hn => ?_⟩
  · rw [advance_in_row hgeom (endsOperation_eq_false (.inl ha)),
      advanceSource_in_row (g := g.charged .lmcm s.blank) ha]
    rfl
  · rw [advance_in_row hgeom (endsOperation_eq_false (.inr hn)),
      advanceSource_at_end (g := g.charged .lmcm s.blank) ha.le]
    rfl
  · rw [advance_last hgeom ((endsOperation_iff _).2 ⟨ha.le, hn.le⟩), advanceSource_opc]
    rfl

/-- The state with the VRAM and the draws of another. -/
def State.withVideo (s t : State) : State := { s with vram := t.vram, draws := t.draws }

/-- SetPixel changes VRAM and the draws alone, by what the accessor reads. -/
theorem SameVideo.setPixel_eq {t : State} (h : SameVideo s t) (l : Layout) (x y : Int) (c : Byte)
    (lo : BitVec 4) : s.setPixel l x y c lo = s.withVideo (t.setPixel l x y c lo) := by
  have hvideo := h.setPixel l x y c lo
  rw [Machine.setPixel_eq, hvideo.vram, hvideo.draws]
  rfl

/-- Settles O46: the step composites the byte, and moves on by where it stands in its rectangle. -/
theorem pixelWriteCompositesAndMovesOn : Obligations.PixelWriteCompositesAndMovesOn := by
  unfold Obligations.PixelWriteCompositesAndMovesOn
  intro s g v hs hce hg hcm hanx hny u opc
  have hvideo : SameVideo ((s.writeReg 12 v).cost .lmmc) s := ⟨rfl, rfl, rfl⟩
  have hstep : exec (.wrClr v) s =
      .next ((((s.writeReg 12 v).cost .lmmc).withVideo u).advance Geom.advanceDest) := by
    rw [exec_of_unmarked rfl hs, ← hvideo.setPixel_eq]
    exact congrArg _ (pixelWrite_of_lmmc (s := s.writeReg 12 v) hce hg hcm v)
  have hgeom : (((s.writeReg 12 v).cost .lmmc).withVideo u).geom =
      some (g.charged .lmmc s.blank) := cost_geom_of_some (s := s.writeReg 12 v) hg .lmmc
  rw [hstep]
  refine ⟨fun ha => ⟨countDown g.anx, rfl, ?_⟩, fun ha hn => ⟨countDown g.ny, rfl, ?_⟩,
    fun ha hn => ?_⟩
  · rw [advance_in_row hgeom (endsOperation_eq_false (.inl ha)),
      advanceDest_in_row (g := g.charged .lmmc s.blank) ha]
    rfl
  · rw [advance_in_row hgeom (endsOperation_eq_false (.inr hn)),
      advanceDest_at_end (g := g.charged .lmmc s.blank) ha.le]
    rfl
  · rw [advance_last hgeom ((endsOperation_iff _).2 ⟨ha.le, hn.le⟩), advanceDest_opc]
    rfl

/-! ## Bytes a fed transfer keeps (20_memory.md R67) -/

theorem lmmcStep_read_of_ne (h : Memory.wf s.vram) {g : Geom} {a : VramAddr}
    (ha : g.gl.address s.params.planarG6G7 g.adx g.dy ≠ a) (v : Byte) :
    (lmmcStep g v s).vram.read a = s.vram.read a := by
  rw [lmmcStep, (advance_sameVideo _ _).vram]
  exact setPixel_read_of_ne (s := s.cost .lmmc) h ha

theorem hmmcStep_read_of_ne (h : Memory.wf s.vram) {g : Geom} {a : VramAddr}
    (ha : g.gl.byteAddress s.params.planarG6G7 g.adx g.dy ≠ a) (v : Byte) :
    (hmmcStep g v s).vram.read a = s.vram.read a := by
  rw [hmmcStep, (advance_sameVideo _ _).vram, writeByteAt_read (s := s.cost .hmmc) h]
  exact if_neg ha.symm

/-- Settles O48: the write feeds no transfer, or is a step of the active one. -/
theorem transferWriteKeepsBytesOutside : Obligations.TransferWriteKeepsBytesOutside := by
  unfold Obligations.TransferWriteKeepsBytesOutside
  intro s t g v hwf hg hexec
  obtain ⟨-, -, rfl⟩ := exec_eq_next.1 hexec
  show (_ → ∀ a, _ → (pixelWrite v (s.writeReg 12 v)).vram.read a = _) ∧
    (_ → ∀ a, _ → (pixelWrite v (s.writeReg 12 v)).vram.read a = _)
  obtain he | ⟨g', hg', hstep⟩ := pixelWrite_cases v (s.writeReg 12 v)
  · rw [he]
    exact ⟨fun _ _ _ => rfl, fun _ _ _ => rfl⟩
  · obtain rfl : g = g' := Option.some.inj (hg.symm.trans hg')
    obtain ⟨hcm, he⟩ | ⟨hcm, he⟩ := hstep <;> rw [he]
    · exact ⟨fun _ a ha => lmmcStep_read_of_ne (s := s.writeReg 12 v) hwf ha v, by simp [hcm]⟩
    · exact ⟨by simp [hcm], fun _ a ha => hmmcStep_read_of_ne (s := s.writeReg 12 v) hwf ha v⟩

end Sys2Proof.Machine
end

section
/-! PROOFS. Rectangles: the order of their pixels, what a move over one draws, costs and keeps. -/

namespace Sys2Proof.Machine

variable {s t : State}

/-! ## The loops of a rectangle (43_logical_moves.md R161) -/

/-- The columns and rows of a rectangle, row by row. -/
def rectangle (nx ny : Nat) : List (Nat × Nat) :=
  (List.range ny).flatMap fun j => (List.range nx).map fun i => (i, j)

theorem mem_rectangle {nx ny : Nat} {p : Nat × Nat} :
    p ∈ rectangle nx ny ↔ p.1 < nx ∧ p.2 < ny := by
  obtain ⟨i, j⟩ := p
  simp [rectangle, and_comm]

theorem overRectangle_eq_foldl (nx ny : Nat) (body : Nat → Nat → State → State) (s : State) :
    overRectangle nx ny body s = (rectangle nx ny).foldl (fun u p => body p.1 p.2 u) s := by
  simp only [overRectangle, rectangle, List.foldl_flatMap, List.foldl_map]

theorem overRectangle_of_empty {nx ny : Nat} (h : nx = 0 ∨ ny = 0)
    (body : Nat → Nat → State → State) (s : State) : overRectangle nx ny body s = s := by
  have hnil : rectangle nx ny = [] := by
    refine List.eq_nil_iff_forall_not_mem.2 fun p hp => ?_
    obtain ⟨hi, hj⟩ := mem_rectangle.1 hp
    omega
  rw [overRectangle_eq_foldl, hnil, List.foldl_nil]

/-- What holds before a rectangle and is kept by every column of every row holds after it. -/
theorem overRectangle_induct {P : State → Prop} {nx ny : Nat} {body : Nat → Nat → State → State}
    (h0 : P s) (hbody : ∀ i j u, i < nx → j < ny → P u → P (body i j u)) :
    P (overRectangle nx ny body s) := by
  rw [overRectangle_eq_foldl]
  refine List.foldlRecOn (motive := P) _ _ h0 fun u hu p hp => ?_
  obtain ⟨hi, hj⟩ := mem_rectangle.1 hp
  exact hbody p.1 p.2 u hi hj hu

/-- A relation holds between the pixels of a rectangle in their order if it holds within a row from
left to right and from a row to a later one. -/
theorem rectangle_pairwise {R : Nat × Nat → Nat × Nat → Prop} {nx ny : Nat}
    (h : ∀ i j i' j', i < nx → j < ny → i' < nx → j' < ny → (j < j' ∨ j = j' ∧ i < i') →
      R (i, j) (i', j')) : (rectangle nx ny).Pairwise R := by
  rw [rectangle, List.pairwise_flatMap]
  constructor
  · intro j hj
    rw [List.pairwise_map]
    refine List.pairwise_lt_range.imp_of_mem fun hi hi' hlt => ?_
    rw [List.mem_range] at hi hi' hj
    exact h _ _ _ _ hi hj hi' hj (.inr ⟨rfl, hlt⟩)
  · refine List.pairwise_lt_range.imp_of_mem fun hj hj' hlt => ?_
    simp only [List.mem_map, List.mem_range] at hj hj' ⊢
    rintro _ ⟨i, hi, rfl⟩ _ ⟨i', hi', rfl⟩
    exact h _ _ _ _ hi hj hi' hj' (.inl hlt)

/-- The two loops of a handler visit the rectangle as `overRectangle` does, whatever they charge. -/
theorem SameVideo.loops {f body : Nat → Nat → State → State}
    (hbody : ∀ i j u v, SameVideo u v → SameVideo (f i j u) (body i j v)) (h : SameVideo s t)
    (nx ny : Nat) :
    SameVideo (forUpTo ny (fun j => forUpTo nx (fun i => f i j)) s) (overRectangle nx ny body t) := by
  have hloops : overRectangle nx ny body t =
      forUpTo ny (fun j => forUpTo nx (fun i => body i j)) t := by
    simp only [overRectangle, forUpTo_eq_foldl]
  rw [hloops]
  exact forUpTo_related h fun j _ _ h => forUpTo_related h fun i u v => hbody i j u v

theorem SameVideo.finish (h : SameVideo s t) : SameVideo s.finish t :=
  ⟨h.vram, h.draws, h.params⟩

/-! ## The handlers, over their rectangles (43_logical_moves.md R160, R162; 44_high_speed_moves.md R183,
R184) -/

theorem logicalFill_sameVideo (g : Geom) (h : SameVideo s t) :
    SameVideo (logicalFill g s) (overRectangle g.nx g.ny (fun i j u =>
      u.setPixel g.gl (stepped g.dx i g.tx) (stepped g.dy j g.ty) g.cl g.lo) t) := by
  refine (h.loops (fun i j u v h => ?_) g.nx g.ny).finish
  exact (h.cost .lmmv).setPixel ..

theorem logicalCopy_sameVideo (g : Geom) (h : SameVideo s t) :
    SameVideo (logicalCopy g s) (overRectangle g.nx g.ny (fun i j u =>
      u.setPixel g.gl (stepped g.dx i g.tx) (stepped g.dy j g.ty)
        (u.getPixel g.gl (stepped g.sx i g.tx) (stepped g.sy j g.ty)) g.lo) t) := by
  refine (h.loops (fun i j u v h => ?_) g.nx g.ny).finish
  rw [← (h.cost .lmmm).getPixel]
  exact (h.cost .lmmm).setPixel ..

theorem byteCopy_sameVideo (g : Geom) (h : SameVideo s t) :
    SameVideo (byteCopy g s) (overRectangle (g.gl.byteCount g.nx) g.ny (fun i j u =>
      u.writeByteAt g.gl (stepped (g.gl.toByteColumn g.dx) i g.tx) (stepped g.dy j g.ty)
        (u.readByteAt g.gl (stepped (g.gl.toByteColumn g.sx) i g.tx) (stepped g.sy j g.ty))) t) := by
  unfold byteCopy
  dsimp only
  split
  next hnone => rw [overRectangle_of_empty (.inl hnone)]; exact h.finish
  next =>
    refine (h.loops (fun i j u v h => ?_) _ g.ny).finish
    rw [← (h.cost .hmmm).readByteAt]
    exact (h.cost .hmmm).writeByteAt ..

theorem columnCopy_sameVideo (g : Geom) (h : SameVideo s t) :
    SameVideo (columnCopy g s) (overRectangle (columnCount g) g.ny (fun k j u =>
      u.writeByteAt g.gl (stepped (columnStart g) k g.tx) (stepped g.dy j g.ty)
        (u.readByteAt g.gl (stepped (columnStart g) k g.tx) (stepped g.sy j g.ty))) t) := by
  refine (h.loops (fun k j u v h => ?_) _ g.ny).finish
  rw [← (h.cost .ymmm).readByteAt]
  exact (h.cost .ymmm).writeByteAt ..

/-! ## The rectangle a start takes from the registers (30_encoding.md R81, R83) -/

/-- Destination column `i`, before wrapping. -/
def Regs.destX (r : Regs) (i : Nat) : Int := r.dx.toNat + i * xStep r

/-- Destination row `j`, before wrapping. -/
def Regs.destY (r : Regs) (j : Nat) : Int := r.dy.toNat + j * yStep r

/-- Source column `i`, before wrapping. -/
def Regs.sourceX (r : Regs) (i : Nat) : Int := r.sx.toNat + i * xStep r

/-- Source row `j`, before wrapping. -/
def Regs.sourceY (r : Regs) (j : Nat) : Int := r.sy.toNat + j * yStep r

/-- Destination byte column `i`, before wrapping (44_high_speed_moves.md R180). -/
def Regs.destByte (r : Regs) (l : Layout) (i : Nat) : Int :=
  (r.dx.toNat / l.pixelsPerByte : Nat) + i * xStep r

/-- Source byte column `i`, before wrapping (44_high_speed_moves.md R180). -/
def Regs.sourceByte (r : Regs) (l : Layout) (i : Nat) : Int :=
  (r.sx.toNat / l.pixelsPerByte : Nat) + i * xStep r

/-- The byte column of DX, wrapped into the row (44_high_speed_moves.md R184). -/
def Regs.edgeStart (r : Regs) (l : Layout) : Nat := r.dx.toNat / l.pixelsPerByte % l.bytesPerRow

/-- Byte column `k` from DX on, within the row (44_high_speed_moves.md R184). -/
def Regs.edgeByte (r : Regs) (l : Layout) (k : Nat) : Int := r.edgeStart l + k * xStep r

/-- How many byte columns lie from DX to the edge (44_high_speed_moves.md R184). -/
def Regs.edgeCount (r : Regs) (l : Layout) : Nat :=
  if r[13].getLsbD 2 then r.edgeStart l + 1 else l.bytesPerRow - r.edgeStart l

variable {op : Opcode} {lo : BitVec 4} {l : Layout} {r : Regs}

theorem snapshot_destX (i : Nat) :
    stepped (snapshot op lo l r).dx i (snapshot op lo l r).tx = r.destX i := by
  rw [stepped, snapshot_tx_toInt]
  rfl

theorem snapshot_destY (j : Nat) :
    stepped (snapshot op lo l r).dy j (snapshot op lo l r).ty = r.destY j := by
  rw [stepped, snapshot_ty_toInt]
  rfl

theorem snapshot_sourceX (i : Nat) :
    stepped (snapshot op lo l r).sx i (snapshot op lo l r).tx = r.sourceX i := by
  rw [stepped, snapshot_tx_toInt]
  rfl

theorem snapshot_sourceY (j : Nat) :
    stepped (snapshot op lo l r).sy j (snapshot op lo l r).ty = r.sourceY j := by
  rw [stepped, snapshot_ty_toInt]
  rfl

theorem toByteColumn_natCast (l : Layout) (x : Nat) :
    l.toByteColumn x = (x / l.pixelsPerByte : Nat) := by
  simp [Layout.toByteColumn, Layout.pixelsPerByte]

theorem snapshot_destByte (i : Nat) :
    stepped (l.toByteColumn (snapshot op lo l r).dx) i (snapshot op lo l r).tx = r.destByte l i := by
  rw [stepped, snapshot_tx_toInt]
  exact congrArg (· + _) (toByteColumn_natCast l r.dx.toNat)

theorem snapshot_sourceByte (i : Nat) :
    stepped (l.toByteColumn (snapshot op lo l r).sx) i (snapshot op lo l r).tx =
      r.sourceByte l i := by
  rw [stepped, snapshot_tx_toInt]
  exact congrArg (· + _) (toByteColumn_natCast l r.sx.toNat)

theorem snapshot_columnStart : columnStart (snapshot op lo l r) = r.edgeStart l :=
  congrArg (· % (l.bytesPerRow : Int)) (toByteColumn_natCast l r.dx.toNat)

theorem snapshot_edgeByte (k : Nat) :
    stepped (columnStart (snapshot op lo l r)) k (snapshot op lo l r).tx = r.edgeByte l k := by
  rw [stepped, snapshot_tx_toInt, snapshot_columnStart]
  rfl

theorem snapshot_columnCount : columnCount (snapshot op lo l r) = r.edgeCount l := by
  unfold columnCount
  rw [snapshot_tx, snapshot_columnStart, Regs.edgeCount]
  cases r[13].getLsbD 2
  · exact Int.toNat_sub l.bytesPerRow (r.edgeStart l)
  · rfl

/-! ## Starts that run over a rectangle (40_dispatch.md R104, R123, R124) -/

theorem isNoop_of_isRectangle {op : Opcode} (h : op.isRectangle = true) : op.isNoop = false := by
  revert h
  cases op <;> decide

/-- A start whose handler runs over a rectangle does so where it is degenerate too: there is nothing in
the rectangle then. -/
theorem start_overRectangle (hs : s.Starts l) (hop : op.isRectangle = true) (lo : BitVec 4)
    {handler : Geom → State → State} {nx ny : Nat} {body : Nat → Nat → State → State}
    (hempty : s.regs.nx = 0 ∨ s.regs.ny = 0 → nx = 0 ∨ ny = 0)
    (hrun : SameVideo (handler (snapshot op lo l s.regs) (s.running op lo l))
      (overRectangle nx ny body s)) :
    SameVideo (s.start op lo handler) (overRectangle nx ny body s) := by
  obtain ⟨-, hmode, hpolicy⟩ := hs
  by_cases hd : s.regs.nx = 0 ∨ s.regs.ny = 0
  · rw [start_degenerate hop hpolicy hmode hd, overRectangle_of_empty (hempty hd)]
    exact ⟨rfl, rfl, rfl⟩
  · rwa [start_runs (isNoop_of_isRectangle hop) hpolicy hmode fun _ => not_or.1 hd]

theorem size_eq_zero (h : r.nx = 0 ∨ r.ny = 0) : r.nx.toNat = 0 ∨ r.ny.toNat = 0 :=
  h.imp (congrArg BitVec.toNat) (congrArg BitVec.toNat)

theorem effect_cmdLmmv_video (hs : s.Starts l) (lo : BitVec 4) :
    SameVideo (effect (.cmdLmmv lo) s) (overRectangle s.regs.nx.toNat s.regs.ny.toNat
      (fun i j u => u.setPixel l (s.regs.destX i) (s.regs.destY j) s.regs[12] lo) s) := by
  refine start_overRectangle (op := .lmmv) hs rfl lo size_eq_zero ?_
  have h := logicalFill_sameVideo (snapshot .lmmv lo l s.regs) (s := s.running .lmmv lo l) (t := s)
    ⟨rfl, rfl, rfl⟩
  simp only [snapshot_destX, snapshot_destY] at h
  exact h

theorem effect_cmdLmmm_video (hs : s.Starts l) (lo : BitVec 4) :
    SameVideo (effect (.cmdLmmm lo) s) (overRectangle s.regs.nx.toNat s.regs.ny.toNat
      (fun i j u => u.setPixel l (s.regs.destX i) (s.regs.destY j)
        (u.getPixel l (s.regs.sourceX i) (s.regs.sourceY j)) lo) s) := by
  refine start_overRectangle (op := .lmmm) hs rfl lo size_eq_zero ?_
  have h := logicalCopy_sameVideo (snapshot .lmmm lo l s.regs) (s := s.running .lmmm lo l) (t := s)
    ⟨rfl, rfl, rfl⟩
  simp only [snapshot_destX, snapshot_destY, snapshot_sourceX, snapshot_sourceY] at h
  exact h

theorem effect_cmdHmmm_video (hs : s.Starts l) (lo : BitVec 4) :
    SameVideo (effect (.cmdHmmm lo) s)
      (overRectangle (s.regs.nx.toNat / l.pixelsPerByte) s.regs.ny.toNat
        (fun i j u => u.writeByteAt l (s.regs.destByte l i) (s.regs.destY j)
          (u.readByteAt l (s.regs.sourceByte l i) (s.regs.sourceY j))) s) := by
  refine start_overRectangle (op := .hmmm) hs rfl lo (fun hd => ?_) ?_
  · exact (size_eq_zero hd).imp_left fun hx => by rw [hx, Nat.zero_div]
  have h := byteCopy_sameVideo (snapshot .hmmm lo l s.regs) (s := s.running .hmmm lo l) (t := s)
    ⟨rfl, rfl, rfl⟩
  have hl : (snapshot .hmmm lo l s.regs).gl = l := rfl
  simp only [hl, snapshot_destByte, snapshot_destY, snapshot_sourceByte, snapshot_sourceY] at h
  exact h

/-- NX has no part in the extent of YMMM, but NX = 0 is degenerate (44_high_speed_moves.md R185). -/
theorem effect_cmdYmmm_video (hs : s.Starts l) (hx : s.regs.nx ≠ 0) (lo : BitVec 4) :
    SameVideo (effect (.cmdYmmm lo) s) (overRectangle (s.regs.edgeCount l) s.regs.ny.toNat
      (fun k j u => u.writeByteAt l (s.regs.edgeByte l k) (s.regs.destY j)
        (u.readByteAt l (s.regs.edgeByte l k) (s.regs.sourceY j))) s) := by
  refine start_overRectangle (op := .ymmm) hs rfl lo (fun hd => .inr ?_) ?_
  · exact congrArg BitVec.toNat (hd.resolve_left hx)
  have h := columnCopy_sameVideo (snapshot .ymmm lo l s.regs) (s := s.running .ymmm lo l) (t := s)
    ⟨rfl, rfl, rfl⟩
  simp only [snapshot_columnCount, snapshot_edgeByte, snapshot_destY, snapshot_sourceY] at h
  exact h

/-- The cost of a start that charges for each of the `n` things its handler draws. -/
theorem start_lastCost (hs : s.Starts l) (hop : op.isRectangle = true) (lo : BitVec 4)
    {handler : Geom → State → State} {k : CostClass} {n : Nat}
    (hempty : s.regs.nx = 0 ∨ s.regs.ny = 0 → n = 0)
    (hrun : ∃ t, Drawn k (s.running op lo l) n t ∧
      handler (snapshot op lo l s.regs) (s.running op lo l) = t.finish) :
    (s.start op lo handler).lastCost = n * Config.costTable k l s.blank := by
  obtain ⟨-, hmode, hpolicy⟩ := hs
  by_cases hd : s.regs.nx = 0 ∨ s.regs.ny = 0
  · rw [start_degenerate hop hpolicy hmode hd, hempty hd, Nat.zero_mul]
    rfl
  · obtain ⟨t, hdrawn, he⟩ := hrun
    rw [start_runs (isNoop_of_isRectangle hop) hpolicy hmode fun _ => not_or.1 hd, he, hdrawn.finish]
    exact Nat.zero_add _

/-- Settles O41: the handlers run over the rectangle of the registers, and charge for each pixel. -/
theorem logicalMovesRunSequentially : Obligations.LogicalMovesRunSequentially := by
  unfold Obligations.LogicalMovesRunSequentially
  intro s l lo hs nx ny dx dy sx sy filled copied
  have hfill : SameVideo (effect (.cmdLmmv lo) s) filled := effect_cmdLmmv_video hs lo
  have hcopy : SameVideo (effect (.cmdLmmm lo) s) copied := effect_cmdLmmm_video hs lo
  have hcount : ny * (nx * 1) = nx * ny := by rw [Nat.mul_one, Nat.mul_comm]
  have hempty (h : s.regs.nx = 0 ∨ s.regs.ny = 0) : ny * (nx * 1) = 0 := by
    rw [hcount]
    exact Nat.mul_eq_zero.2 (size_eq_zero h)
  refine ⟨⟨_, exec_of_unmarked rfl hs.1, hfill.vram, hfill.draws, ?_⟩,
    ⟨_, exec_of_unmarked rfl hs.1, hcopy.vram, hcopy.draws, ?_⟩⟩
  · rw [← hcount]
    exact start_lastCost (op := .lmmv) hs rfl lo hempty (logicalFill_eq (snapshot .lmmv lo l s.regs) _)
  · rw [← hcount]
    exact start_lastCost (op := .lmmm) hs rfl lo hempty (logicalCopy_eq (snapshot .lmmm lo l s.regs) _)

/-! ## Bytes outside the rectangle (20_memory.md R67) -/

/-- Video memory is canonical, and the byte at `a` is that of `s`. -/
structure ByteKept (a : VramAddr) (s t : State) : Prop where
  wf : Memory.wf t.vram
  params : t.params = s.params
  byte : t.vram.read a = s.vram.read a

theorem ByteKept.refl (h : Memory.wf s.vram) (a : VramAddr) : ByteKept a s s := ⟨h, rfl, rfl⟩

theorem ByteKept.setPixel {a : VramAddr} (h : ByteKept a s t) {x y : Int}
    (ha : l.address s.params.planarG6G7 x y ≠ a) (c : Byte) (lo : BitVec 4) :
    ByteKept a s (t.setPixel l x y c lo) := by
  rw [← h.params] at ha
  exact ⟨setPixel_wf h.wf .., setPixel_params.trans h.params,
    (setPixel_read_of_ne h.wf ha).trans h.byte⟩

theorem ByteKept.writeByteAt {a : VramAddr} (h : ByteKept a s t) {bx y : Int}
    (ha : l.byteAddress s.params.planarG6G7 bx y ≠ a) (v : Byte) :
    ByteKept a s (t.writeByteAt l bx y v) := by
  rw [← h.params] at ha
  refine ⟨writeByteAt_wf h.wf .., h.params, ?_⟩
  rw [writeByteAt_read h.wf, if_neg ha.symm, h.byte]

/-- Drawing over a rectangle, in whatever colours, keeps a byte at the address of none of its pixels. -/
theorem overRectangle_setPixel_read {nx ny : Nat} {dx dy : Nat → Int} {a : VramAddr}
    (hwf : Memory.wf s.vram)
    (ha : ∀ i j, i < nx → j < ny → l.address s.params.planarG6G7 (dx i) (dy j) ≠ a)
    (colour : Nat → Nat → State → Byte) (lo : BitVec 4) :
    (overRectangle nx ny (fun i j u =>
      u.setPixel l (dx i) (dy j) (colour i j u) lo) s).vram.read a = s.vram.read a :=
  (overRectangle_induct (P := ByteKept a s) (.refl hwf a)
    fun i j _ hi hj hu => hu.setPixel (ha i j hi hj) ..).byte

/-- Writing the bytes of a rectangle, whatever they are, keeps every other byte. -/
theorem overRectangle_writeByteAt_read {nx ny : Nat} {dx dy : Nat → Int} {a : VramAddr}
    (hwf : Memory.wf s.vram)
    (ha : ∀ i j, i < nx → j < ny → l.byteAddress s.params.planarG6G7 (dx i) (dy j) ≠ a)
    (value : Nat → Nat → State → Byte) :
    (overRectangle nx ny (fun i j u =>
      u.writeByteAt l (dx i) (dy j) (value i j u)) s).vram.read a = s.vram.read a :=
  (overRectangle_induct (P := ByteKept a s) (.refl hwf a)
    fun i j _ hi hj hu => hu.writeByteAt (ha i j hi hj) _).byte

theorem effect_cmdYmmm_degenerate (hs : s.Starts l) (hx : s.regs.nx = 0) (lo : BitVec 4) :
    SameVideo (effect (.cmdYmmm lo) s) s := by
  have he : effect (.cmdYmmm lo) s = (s.running .ymmm lo l).finish :=
    start_degenerate (op := .ymmm) rfl hs.2.2 hs.2.1 (.inl hx)
  rw [he]
  exact ⟨rfl, rfl, rfl⟩

/-- Settles O54: no pixel or byte of the rectangle stands at the address. -/
theorem movesKeepBytesOutsideTheRectangle : Obligations.MovesKeepBytesOutsideTheRectangle := by
  unfold Obligations.MovesKeepBytesOutsideTheRectangle
  intro s l lo hs hwf dy bx₀ n
  refine ⟨fun c hc => ?_, ⟨_, exec_of_unmarked rfl hs.1, fun a ha => ?_⟩,
    ⟨_, exec_of_unmarked rfl hs.1, fun a ha => ?_⟩⟩
  · simp only [List.mem_cons, List.not_mem_nil, or_false] at hc
    obtain rfl | rfl := hc
    all_goals refine ⟨_, exec_of_unmarked rfl hs.1, fun a ha => ?_⟩
    · rw [(effect_cmdLmmv_video hs lo).vram]
      exact overRectangle_setPixel_read hwf ha _ lo
    · rw [(effect_cmdLmmm_video hs lo).vram]
      exact overRectangle_setPixel_read hwf ha _ lo
  · rw [(effect_cmdHmmm_video hs lo).vram]
    exact overRectangle_writeByteAt_read hwf ha _
  · by_cases hx : s.regs.nx = 0
    · rw [(effect_cmdYmmm_degenerate hs hx lo).vram]
    · rw [(effect_cmdYmmm_video hs hx lo).vram]
      exact overRectangle_writeByteAt_read hwf ha _

end Sys2Proof.Machine
end

section
/-! PROOFS. LMMV and LMMM composite every pixel of their rectangle once. -/

namespace Sys2Proof.Machine

variable {s t : State} {l : Layout} {lo : BitVec 4}

/-! ## Compositing pixels one after the other (20_memory.md R60, 43_logical_moves.md R161) -/

theorem getPixel_and_mask (s : State) (l : Layout) (x y : Int) :
    s.getPixel l x y &&& l.pixelMask = s.getPixel l x y :=
  pixelOfByte_and_mask l x _

/-- A rectangle of pixels to composite: where each stands, and its colour in the state it is drawn in. -/
structure Drawing where
  x : Nat → Int
  y : Nat → Int
  colour : Nat × Nat → State → Byte

/-- Composite pixel `p` of the drawing. -/
def Drawing.draw (d : Drawing) (l : Layout) (lo : BitVec 4) (s : State) (p : Nat × Nat) : State :=
  s.setPixel l (d.x p.1) (d.y p.2) (d.colour p s) lo

/-- Pixel `p`, drawn before pixel `q`, is neither `q` nor changes the colour of `q`. -/
structure Drawing.Apart (d : Drawing) (l : Layout) (lo : BitVec 4) (p q : Nat × Nat) : Prop where
  dest : ¬ samePixel l (d.x p.1) (d.y p.2) (d.x q.1) (d.y q.2)
  colour : ∀ s, Memory.wf s.vram → d.colour q (d.draw l lo s p) = d.colour q s

/-- From `s` to `t` each of the pixels is composited once, in its colour in `s`, and no other changes. -/
structure Drawing.Composited (d : Drawing) (l : Layout) (lo : BitVec 4) (pixels : List (Nat × Nat))
    (s t : State) : Prop where
  inside : ∀ p ∈ pixels,
    combine lo (d.colour p s &&& l.pixelMask) (s.getPixel l (d.x p.1) (d.y p.2)) l.pixelMask =
      some (t.getPixel l (d.x p.1) (d.y p.2))
  outside : ∀ x y, (∀ p ∈ pixels, ¬ samePixel l (d.x p.1) (d.y p.2) x y) →
    t.getPixel l x y = s.getPixel l x y

theorem Drawing.composited_single (d : Drawing) (hwf : Memory.wf s.vram) (hlo : ¬ reservedCode lo)
    (p : Nat × Nat) : d.Composited l lo [p] s (d.draw l lo s p) := by
  obtain ⟨-, hinside, houtside, -, -⟩ := setPixelCompositesOnePixel s l (d.x p.1) (d.y p.2)
    (d.colour p s) lo hwf hlo
  exact ⟨List.forall_mem_singleton.2 hinside,
    fun x y hp => houtside x y (hp p (List.mem_singleton_self p))⟩

/-- Pixels that stand apart are each composited once. -/
theorem Drawing.composited_foldl (d : Drawing) (hlo : ¬ reservedCode lo) {pixels : List (Nat × Nat)}
    (hapart : pixels.Pairwise (d.Apart l lo)) (hwf : Memory.wf s.vram) :
    d.Composited l lo pixels s (pixels.foldl (d.draw l lo) s) := by
  induction pixels generalizing s with
  | nil => exact ⟨by simp, fun _ _ _ => rfl⟩
  | cons p pixels ih =>
    obtain ⟨hp, hpixels⟩ := List.pairwise_cons.1 hapart
    have hfirst := d.composited_single (l := l) hwf hlo p
    have hrest := ih hpixels (s := d.draw l lo s p) (setPixel_wf hwf ..)
    constructor
    · rw [List.forall_mem_cons]
      constructor
      · rw [List.foldl_cons, hrest.outside _ _ fun q hq ⟨hx, hy⟩ => (hp q hq).dest ⟨hx.symm, hy.symm⟩]
        exact hfirst.inside p (List.mem_singleton_self p)
      · intro q hq
        rw [List.foldl_cons, ← hrest.inside q hq, (hp q hq).colour s hwf,
          hfirst.outside _ _ (List.forall_mem_singleton.2 (hp q hq).dest)]
    · intro x y hout
      obtain ⟨hx, hxs⟩ := List.forall_mem_cons.1 hout
      rw [List.foldl_cons, hrest.outside x y hxs,
        hfirst.outside x y (List.forall_mem_singleton.2 hx)]

/-- A rectangle whose pixels stand apart in their order is composited once. -/
theorem Drawing.composited_rectangle (d : Drawing) (hlo : ¬ reservedCode lo) {nx ny : Nat}
    (hwf : Memory.wf s.vram)
    (hapart : ∀ i j i' j', i < nx → j < ny → i' < nx → j' < ny → (j < j' ∨ j = j' ∧ i < i') →
      d.Apart l lo (i, j) (i', j'))
    (h : SameVideo t (overRectangle nx ny (fun i j u => d.draw l lo u (i, j)) s)) :
    d.Composited l lo (rectangle nx ny) s t := by
  rw [overRectangle_eq_foldl] at h
  obtain ⟨hinside, houtside⟩ := d.composited_foldl hlo (rectangle_pairwise hapart) hwf
  constructor
  · intro p hp
    rw [h.getPixel, hinside p hp]
  · intro x y hout
    rw [h.getPixel]
    exact houtside x y hout

/-! ## LMMV (43_logical_moves.md R160) -/

theorem xStep_cases (r : Regs) : xStep r = 1 ∨ xStep r = -1 := by
  unfold xStep
  split <;> simp

theorem yStep_cases (r : Regs) : yStep r = 1 ∨ yStep r = -1 := by
  unfold yStep
  split <;> simp

/-- Of at most `n` steps no two come to the same coordinate modulo `n`. -/
theorem step_injective_mod {a d : Int} (hd : d = 1 ∨ d = -1) {n i i' : Nat} (hi : i < n)
    (hi' : i' < n) (h : (a + i * d) % n = (a + i' * d) % n) : i = i' := by
  have hdvd : (n : Int) ∣ (i' - i : Int) * d := by
    convert Int.ModEq.dvd h using 1
    ring
  have hdvd' : (n : Int) ∣ (i' - i : Int) := by
    obtain rfl | rfl := hd
    · rwa [mul_one] at hdvd
    · rwa [mul_neg_one, dvd_neg] at hdvd
  have hzero := Int.eq_zero_of_abs_lt_dvd hdvd' (by rw [abs_lt]; omega)
  omega

/-- The rectangle of a start, every pixel in the colour CL. -/
def fillDrawing (r : Regs) : Drawing := { x := r.destX, y := r.destY, colour := fun _ _ => r[12] }

theorem fillDrawing_apart {r : Regs} {i j i' j' : Nat} (hi : i < l.pageWidth.toNat)
    (hj : j < l.rows) (hi' : i' < l.pageWidth.toNat) (hj' : j' < l.rows)
    (hbefore : j < j' ∨ j = j' ∧ i < i') : (fillDrawing r).Apart l lo (i, j) (i', j') := by
  refine ⟨fun ⟨hx, hy⟩ => ?_, fun _ _ => rfl⟩
  have hcolumn := step_injective_mod (xStep_cases r) hi hi' hx
  have hrow := step_injective_mod (yStep_cases r) hj hj' hy
  omega

/-- Settles O42: in a rectangle not wider or higher than the layout no pixel is visited twice. -/
theorem fillCompositesTheRectangle : Obligations.FillCompositesTheRectangle := by
  unfold Obligations.FillCompositesTheRectangle
  intro s l lo hs hwf hlo hnx hny dx dy
  obtain ⟨hinside, houtside⟩ := (fillDrawing s.regs).composited_rectangle hlo hwf
    (fun i j i' j' hi hj hi' hj' => fillDrawing_apart (hi.trans_le hnx) (hj.trans_le hny)
      (hi'.trans_le hnx) (hj'.trans_le hny))
    (effect_cmdLmmv_video hs lo)
  exact ⟨_, exec_of_unmarked rfl hs.1,
    fun i j hi hj => hinside (i, j) (mem_rectangle.2 ⟨hi, hj⟩),
    fun x y hout => houtside x y fun p hp =>
      hout p.1 p.2 (mem_rectangle.1 hp).1 (mem_rectangle.1 hp).2⟩

/-! ## LMMM (43_logical_moves.md R162 to R164) -/

/-- The rectangle of a start, every pixel in the colour of its source pixel. -/
def copyDrawing (l : Layout) (r : Regs) : Drawing :=
  { x := r.destX
    y := r.destY
    colour := fun p s => s.getPixel l (r.sourceX p.1) (r.sourceY p.2) }

/-- The coordinate pair needs no wrapping. -/
def InPage (l : Layout) (x y : Int) : Prop :=
  (0 ≤ x ∧ x < l.pageWidth.toNat) ∧ (0 ≤ y ∧ y < l.rows)

theorem eq_of_samePixel {x y x' y' : Int} (h : InPage l x y) (h' : InPage l x' y')
    (hsame : samePixel l x y x' y') : x = x' ∧ y = y' := by
  obtain ⟨⟨hx, hx'⟩, hy, hy'⟩ := h
  obtain ⟨⟨hu, hu'⟩, hv, hv'⟩ := h'
  unfold samePixel at hsame
  rwa [Int.emod_eq_of_lt hx hx', Int.emod_eq_of_lt hu hu', Int.emod_eq_of_lt hy hy',
    Int.emod_eq_of_lt hv hv'] at hsame

theorem destX_injective {r : Regs} {i i' : Nat} (h : r.destX i = r.destX i') : i = i' := by
  unfold Regs.destX at h
  obtain hstep | hstep := xStep_cases r <;> rw [hstep] at h <;> omega

theorem destY_injective {r : Regs} {j j' : Nat} (h : r.destY j = r.destY j') : j = j' := by
  unfold Regs.destY at h
  obtain hstep | hstep := yStep_cases r <;> rw [hstep] at h <;> omega

/-- Where destination column `i` is source column `i'`, `i` comes after `i'` by the distance from DX
to SX in direction TX. -/
theorem destX_eq_sourceX {r : Regs} {i i' : Nat} (h : r.destX i = r.sourceX i') :
    ((r.sx.toNat : Int) - r.dx.toNat) * xStep r = i - i' := by
  unfold Regs.destX Regs.sourceX at h
  obtain hstep | hstep := xStep_cases r <;> rw [hstep] at h ⊢ <;> omega

theorem destY_eq_sourceY {r : Regs} {j j' : Nat} (h : r.destY j = r.sourceY j') :
    ((r.sy.toNat : Int) - r.dy.toNat) * yStep r = j - j' := by
  unfold Regs.destY Regs.sourceY at h
  obtain hstep | hstep := yStep_cases r <;> rw [hstep] at h ⊢ <;> omega

/-- The signs satisfy (a) or (b) of 43_logical_moves.md R164, or the rectangles do not overlap. -/
def CopySafe (r : Regs) : Prop :=
  0 < ((r.sy.toNat : Int) - r.dy.toNat) * yStep r ∨
  ((r.sy.toNat : Int) = r.dy.toNat ∧ 0 ≤ ((r.sx.toNat : Int) - r.dx.toNat) * xStep r) ∨
  ∀ i i' j j' : Nat, i < r.nx.toNat → i' < r.nx.toNat → j < r.ny.toNat → j' < r.ny.toNat →
    ¬ (r.sourceX i = r.destX i' ∧ r.sourceY j = r.destY j')

/-- In a safe copy no source pixel is read after it has been a destination: where the two are the same
pixel, the destination comes no sooner. -/
theorem CopySafe.source_unwritten {r : Regs} (h : CopySafe r) {i j i' j' : Nat}
    (hi : i < r.nx.toNat) (hj : j < r.ny.toNat) (hi' : i' < r.nx.toNat) (hj' : j' < r.ny.toNat)
    (hbefore : j < j' ∨ j = j' ∧ i < i') :
    ¬ (r.destX i = r.sourceX i' ∧ r.destY j = r.sourceY j') := by
  rintro ⟨hx, hy⟩
  have hcolumns := destX_eq_sourceX hx
  have hrows := destY_eq_sourceY hy
  obtain hrow | ⟨hsame, hcolumn⟩ | hdisjoint := h
  · omega
  · rw [hsame, sub_self, zero_mul] at hrows
    omega
  · exact hdisjoint i' i j' j hi' hi hj' hj ⟨hx.symm, hy.symm⟩

theorem copyDrawing_apart {r : Regs} (hlo : ¬ reservedCode lo) (hsafe : CopySafe r)
    (hin : ∀ i j, i < r.nx.toNat → j < r.ny.toNat →
      InPage l (r.sourceX i) (r.sourceY j) ∧ InPage l (r.destX i) (r.destY j))
    {i j i' j' : Nat} (hi : i < r.nx.toNat) (hj : j < r.ny.toNat) (hi' : i' < r.nx.toNat)
    (hj' : j' < r.ny.toNat) (hbefore : j < j' ∨ j = j' ∧ i < i') :
    (copyDrawing l r).Apart l lo (i, j) (i', j') := by
  obtain ⟨-, hdest⟩ := hin i j hi hj
  obtain ⟨hsource', hdest'⟩ := hin i' j' hi' hj'
  constructor
  · intro hsame
    obtain ⟨hx, hy⟩ := eq_of_samePixel hdest hdest' hsame
    have hcolumn := destX_injective hx
    have hrow := destY_injective hy
    omega
  · intro s hwf
    obtain ⟨-, -, houtside, -, -⟩ := setPixelCompositesOnePixel s l (r.destX i) (r.destY j)
      (s.getPixel l (r.sourceX i) (r.sourceY j)) lo hwf hlo
    exact houtside _ _ fun hsame =>
      hsafe.source_unwritten hi hj hi' hj' hbefore (eq_of_samePixel hdest hsource' hsame)

/-- Settles O43: no pixel is visited twice, and every source pixel is read before it is overwritten. -/
theorem copyIsMemmoveSafe : Obligations.CopyIsMemmoveSafe := by
  unfold Obligations.CopyIsMemmoveSafe
  intro s l lo hs hwf hlo nx ny tx ty sx₀ sy₀ dx₀ dy₀ inRow inPage hrow hpage hsafe
  obtain ⟨hinside, houtside⟩ := (copyDrawing l s.regs).composited_rectangle hlo hwf
    (fun i j i' j' => copyDrawing_apart hlo hsafe fun i j hi hj =>
      ⟨⟨(hrow i hi).1, (hpage j hj).1⟩, ⟨(hrow i hi).2, (hpage j hj).2⟩⟩)
    (effect_cmdLmmm_video hs lo)
  refine ⟨_, exec_of_unmarked rfl hs.1, fun i j hi hj => ?_, fun x y hout => ?_⟩
  · rw [← getPixel_and_mask]
    exact hinside (i, j) (mem_rectangle.2 ⟨hi, hj⟩)
  · exact houtside x y fun p hp => hout p.1 p.2 (mem_rectangle.1 hp).1 (mem_rectangle.1 hp).2

end Sys2Proof.Machine
end

section
/-! PROOFS. The high-speed starts and HMMC: a width of no byte, the start that waits, each byte fed. -/

namespace Sys2Proof.Machine

variable {s : State} {l : Layout} {lo : BitVec 4}

/-! ## Widths that round down to no byte (44_high_speed_moves.md R181) -/

/-- The handler only finishes where its rectangle is less than one byte wide. -/
def FinishesNarrow (handler : Geom → State → State) : Prop :=
  ∀ g s, s.geom = some g → (g.gl.byteCount g.nx).val = 0 → handler g s = s.finish

theorem byteFill_finishesNarrow : FinishesNarrow byteFill := fun _ _ _ hnone => if_pos hnone

theorem byteCopy_finishesNarrow : FinishesNarrow byteCopy := fun _ _ _ hnone => if_pos hnone

theorem hmmcStart_finishesNarrow : FinishesNarrow hmmcStart := by
  intro g s hg hnone
  have hstart : hmmcStart g s = State.finish { s with geom := some g.inByteUnits } := if_pos hnone
  rw [hstart, State.finish, State.finish, counter_of_geom hg, counter_of_geom rfl]
  rfl

/-- A narrow start that is not degenerate completes as a degenerate one does. -/
theorem FinishesNarrow.start {handler : Geom → State → State} (h : FinishesNarrow handler)
    {op : Opcode} (hop : op.isNoop = false) (hs : s.Starts l) (hx : 1 ≤ s.regs.nx.toNat)
    (hnarrow : s.regs.nx.toNat < l.pixelsPerByte) (hy : s.regs.ny ≠ 0) (lo : BitVec 4) :
    s.start op lo handler = { s with
      regs := s.regs.set 14 (commandByte op lo)
      tr := false
      ce := false
      geom := none
      lastCost := 0 } := by
  obtain ⟨-, hmode, hpolicy⟩ := hs
  have hx' : s.regs.nx ≠ 0 := fun h0 => by simp [h0] at hx
  rw [start_runs hop hpolicy hmode fun _ => ⟨hx', hy⟩, h _ _ rfl (Nat.div_eq_of_lt hnarrow)]
  rfl

/-- Settles O28: each of the three is a start whose handler finishes where no byte is in the row. -/
theorem narrowHighSpeedStartsCompleteAtOnce : Obligations.NarrowHighSpeedStartsCompleteAtOnce := by
  unfold Obligations.NarrowHighSpeedStartsCompleteAtOnce
  intro s l lo hs hx hnarrow hy p hp
  simp only [List.mem_cons, List.not_mem_nil, or_false] at hp
  obtain rfl | rfl | rfl := hp
  · exact (exec_of_unmarked rfl hs.1).trans
      (congrArg _ (byteFill_finishesNarrow.start (op := .hmmv) rfl hs hx hnarrow hy lo))
  · exact (exec_of_unmarked rfl hs.1).trans
      (congrArg _ (byteCopy_finishesNarrow.start (op := .hmmm) rfl hs hx hnarrow hy lo))
  · exact (exec_of_unmarked rfl hs.1).trans
      (congrArg _ (hmmcStart_finishesNarrow.start (op := .hmmc) rfl hs hx hnarrow hy lo))

/-! ## The start of HMMC (44_high_speed_moves.md R187) -/

theorem pixelsPerByte_pos (l : Layout) : 0 < l.pixelsPerByte := Nat.two_pow_pos _

theorem hmmcStart_of_wide {g : Geom} (h : (g.gl.byteCount g.nx).val ≠ 0) (s : State) :
    hmmcStart g s = State.readyForTransfer { s with geom := some g.inByteUnits } :=
  if_neg h

/-- The destination row of a snapshot in byte units (44_high_speed_moves.md R180). -/
theorem snapshot_inByteUnits (op : Opcode) (lo : BitVec 4) (l : Layout) (r : Regs) :
    (snapshot op lo l r).inByteUnits = { snapshot op lo l r with
      dx := (r.dx.toNat / l.pixelsPerByte : Nat)
      adx := (r.dx.toNat / l.pixelsPerByte : Nat)
      nx := l.byteCount r.nx.toFin
      anx := l.byteCount r.nx.toFin } := by
  rw [← toByteColumn_natCast]
  rfl

/-- Settles O30: the handler puts the row in byte units and sets TR. -/
theorem byteTransferStartsAndWaits : Obligations.ByteTransferStartsAndWaits := by
  unfold Obligations.ByteTransferStartsAndWaits
  rintro s l lo ⟨hs, hmode, hpolicy⟩ hwide hy
  have hbytes : (l.byteCount s.regs.nx.toFin).val ≠ 0 :=
    (Nat.div_pos hwide (pixelsPerByte_pos l)).ne'
  have hx : s.regs.nx ≠ 0 := fun h0 => hbytes (by rw [h0]; exact Nat.zero_div _)
  refine ⟨l.byteCount s.regs.nx.toFin, rfl, (exec_of_unmarked rfl hs).trans (congrArg _ ?_)⟩
  calc s.start .hmmc lo hmmcStart
    _ = hmmcStart (snapshot .hmmc lo l s.regs) (s.running .hmmc lo l) :=
      start_runs rfl hpolicy hmode fun _ => ⟨hx, hy⟩
    _ = State.readyForTransfer { s.running .hmmc lo l with
          geom := some (snapshot .hmmc lo l s.regs).inByteUnits } := hmmcStart_of_wide hbytes _
    _ = _ := by
      rw [snapshot_inByteUnits]
      rfl

/-! ## Bytes fed to HMMC (44_high_speed_moves.md R188) -/

theorem pixelWrite_of_hmmc {g : Geom} (hce : s.ce = true) (hg : s.geom = some g)
    (hcm : g.cm = .hmmc) (v : Byte) : pixelWrite v s = hmmcStep g v s := by
  simp [pixelWrite, hg, hce, hcm]

/-- Settles O47: the step writes the byte, and moves on by where it stands in its rectangle. -/
theorem byteWriteOverwritesAndMovesOn : Obligations.ByteWriteOverwritesAndMovesOn := by
  unfold Obligations.ByteWriteOverwritesAndMovesOn
  intro s g v hs hce hg hcm hanx hny m opc
  let u := ((s.writeReg 12 v).cost .hmmc).writeByteAt g.gl g.adx g.dy v
  have hstep : exec (.wrClr v) s = .next (u.advance Geom.advanceDest) :=
    (exec_of_unmarked rfl hs).trans
      (congrArg _ (pixelWrite_of_hmmc (s := s.writeReg 12 v) hce hg hcm v))
  have hgeom : u.geom = some (g.charged .hmmc s.blank) :=
    cost_geom_of_some (s := s.writeReg 12 v) hg .hmmc
  rw [hstep]
  refine ⟨fun ha => ⟨countDown g.anx, rfl, ?_⟩, fun ha hn => ⟨countDown g.ny, rfl, ?_⟩,
    fun ha hn => ?_⟩
  · rw [advance_in_row hgeom (endsOperation_eq_false (.inl ha)),
      advanceDest_in_row (g := g.charged .hmmc s.blank) ha]
    rfl
  · rw [advance_in_row hgeom (endsOperation_eq_false (.inr hn)),
      advanceDest_at_end (g := g.charged .hmmc s.blank) ha.le]
    rfl
  · rw [advance_last hgeom ((endsOperation_iff _).2 ⟨ha.le, hn.le⟩), advanceDest_opc]
    rfl

end Sys2Proof.Machine
end

section
/-! PROOFS. HMMV, HMMM and YMMM: the order of their bytes, what each leaves in video memory. -/

namespace Sys2Proof.Machine

variable {s t : State} {l : Layout} {lo : BitVec 4}

/-! ## The order of the bytes (44_high_speed_moves.md R182 to R186) -/

theorem byteFill_sameVideo (g : Geom) (h : SameVideo s t) :
    SameVideo (byteFill g s) (overRectangle (g.gl.byteCount g.nx) g.ny (fun i j u =>
      u.writeByteAt g.gl (stepped (g.gl.toByteColumn g.dx) i g.tx) (stepped g.dy j g.ty) g.cl) t) := by
  unfold byteFill
  dsimp only
  split
  next hnone => rw [overRectangle_of_empty (.inl hnone)]; exact h.finish
  next =>
    refine (h.loops (fun i j u v h => ?_) _ g.ny).finish
    exact (h.cost .hmmv).writeByteAt ..

/-- A rectangle without columns or rows of pixels has none of bytes. -/
theorem byteSize_eq_zero {r : Regs} (h : r.nx = 0 ∨ r.ny = 0) :
    r.nx.toNat / l.pixelsPerByte = 0 ∨ r.ny.toNat = 0 :=
  (size_eq_zero h).imp_left fun hx => by rw [hx, Nat.zero_div]

theorem effect_cmdHmmv_video (hs : s.Starts l) (lo : BitVec 4) :
    SameVideo (effect (.cmdHmmv lo) s)
      (overRectangle (s.regs.nx.toNat / l.pixelsPerByte) s.regs.ny.toNat
        (fun i j u => u.writeByteAt l (s.regs.destByte l i) (s.regs.destY j) s.regs[12]) s) := by
  refine start_overRectangle (op := .hmmv) hs rfl lo byteSize_eq_zero ?_
  have h := byteFill_sameVideo (snapshot .hmmv lo l s.regs) (s := s.running .hmmv lo l) (t := s)
    ⟨rfl, rfl, rfl⟩
  have hl : (snapshot .hmmv lo l s.regs).gl = l := rfl
  simp only [hl, snapshot_destByte, snapshot_destY] at h
  exact h

/-- Writing bytes draws no free value. -/
theorem overRectangle_writeByteAt_draws (nx ny : Nat) (dx dy : Nat → Int)
    (value : Nat → Nat → State → Byte) (s : State) :
    (overRectangle nx ny (fun i j u =>
      u.writeByteAt l (dx i) (dy j) (value i j u)) s).draws = s.draws :=
  overRectangle_induct (P := fun u => u.draws = s.draws) rfl fun _ _ _ _ _ hu => hu

/-- Settles O50: the handlers run over the rectangle of the registers, and charge for each byte. -/
theorem highSpeedMovesRunSequentially : Obligations.HighSpeedMovesRunSequentially := by
  unfold Obligations.HighSpeedMovesRunSequentially
  intro s l lo hs nx ny dx sx dy sy bx₀ bx n filled copied moved
  have hfill : SameVideo (effect (.cmdHmmv lo) s) filled := effect_cmdHmmv_video hs lo
  have hcopy : SameVideo (effect (.cmdHmmm lo) s) copied := effect_cmdHmmm_video hs lo
  have hcount (k : Nat) : ny * (k * 1) = k * ny := by rw [Nat.mul_one, Nat.mul_comm]
  have hempty (h : s.regs.nx = 0 ∨ s.regs.ny = 0) : ny * (nx * 1) = 0 := by
    rw [hcount]
    exact Nat.mul_eq_zero.2 (byteSize_eq_zero h)
  refine ⟨⟨_, exec_of_unmarked rfl hs.1, hfill.vram, ?_, ?_⟩,
    ⟨_, exec_of_unmarked rfl hs.1, hcopy.vram, ?_, ?_⟩,
    fun hx => ⟨_, exec_of_unmarked rfl hs.1, (effect_cmdYmmm_video hs hx lo).vram, ?_, ?_⟩⟩
  · exact hfill.draws.trans (overRectangle_writeByteAt_draws ..)
  · rw [← hcount]
    exact start_lastCost (op := .hmmv) hs rfl lo hempty (byteFill_eq (snapshot .hmmv lo l s.regs) _)
  · exact hcopy.draws.trans (overRectangle_writeByteAt_draws ..)
  · rw [← hcount]
    exact start_lastCost (op := .hmmm) hs rfl lo hempty (byteCopy_eq (snapshot .hmmm lo l s.regs) _)
  · exact (effect_cmdYmmm_video hs hx lo).draws.trans (overRectangle_writeByteAt_draws ..)
  · have hcolumns : columnCount (snapshot .ymmm lo l s.regs) = n := snapshot_columnCount
    rw [← hcount, ← hcolumns]
    refine start_lastCost (op := .ymmm) hs rfl lo (fun h => ?_)
      (columnCopy_eq (snapshot .ymmm lo l s.regs) _)
    have hny : ny = 0 := congrArg BitVec.toNat (h.resolve_left hx)
    rw [hny, Nat.zero_mul]

/-! ## Storing bytes one after the other -/

/-- The bytes of a move: the address each is written to, and its value in the memory it is written in. -/
structure ByteMove where
  dest : Nat × Nat → VramAddr
  value : Nat × Nat → Memory → Byte

/-- Write byte `p` of the move. -/
def ByteMove.store (d : ByteMove) (m : Memory) (p : Nat × Nat) : Memory :=
  m.write (d.dest p) (d.value p m)

/-- Writing byte `p` before byte `q` changes neither the value of `q` nor, where both go to one address,
what is left there. -/
structure ByteMove.Apart (d : ByteMove) (p q : Nat × Nat) : Prop where
  dest : d.dest p = d.dest q → ∀ m, d.value p m = d.value q m
  value : ∀ m, Memory.wf m → d.value q (d.store m p) = d.value q m

/-- From `m` to `m'` each of the bytes goes to its address, with its value in `m`, and no other
changes. -/
structure ByteMove.Stored (d : ByteMove) (bytes : List (Nat × Nat)) (m m' : Memory) : Prop where
  inside : ∀ p ∈ bytes, m'.read (d.dest p) = d.value p m
  outside : ∀ a, (∀ p ∈ bytes, d.dest p ≠ a) → m'.read a = m.read a

/-- Bytes that stand apart in their order are each stored. -/
theorem ByteMove.stored_foldl (d : ByteMove) {bytes : List (Nat × Nat)}
    (hapart : bytes.Pairwise d.Apart) {m : Memory} (hwf : Memory.wf m) :
    d.Stored bytes m (bytes.foldl d.store m) := by
  induction bytes generalizing m with
  | nil => exact ⟨by simp, fun _ _ => rfl⟩
  | cons p bytes ih =>
    obtain ⟨hp, hbytes⟩ := List.pairwise_cons.1 hapart
    obtain ⟨hinside, houtside⟩ := ih hbytes (m := d.store m p) (Memory.write_wf hwf ..)
    have hlater (q) (hq : q ∈ bytes) :
        (bytes.foldl d.store (d.store m p)).read (d.dest q) = d.value q m :=
      (hinside q hq).trans ((hp q hq).value m hwf)
    rw [List.foldl_cons]
    constructor
    · refine List.forall_mem_cons.2 ⟨?_, hlater⟩
      by_cases hagain : ∃ q ∈ bytes, d.dest p = d.dest q
      · obtain ⟨q, hq, hsame⟩ := hagain
        rw [hsame, hlater q hq, (hp q hq).dest hsame]
      · rw [houtside _ fun q hq hsame => hagain ⟨q, hq, hsame.symm⟩, store, Memory.read_write hwf,
          if_pos rfl]
    · intro a hout
      obtain ⟨ha, hrest⟩ := List.forall_mem_cons.1 hout
      rw [houtside a hrest, store, Memory.read_write hwf, if_neg ha.symm]

/-- The memory after a rectangle whose body stores the bytes of a move, in states with the parameters
of `s`. -/
theorem ByteMove.overRectangle_vram (d : ByteMove) {nx ny : Nat} {body : Nat → Nat → State → State}
    (hbody : ∀ i j u, u.params = s.params →
      (body i j u).params = s.params ∧ (body i j u).vram = d.store u.vram (i, j)) :
    (overRectangle nx ny body s).vram = (rectangle nx ny).foldl d.store s.vram := by
  rw [overRectangle_eq_foldl]
  have hrun := List.foldl_rel (l := rectangle nx ny) (f := fun u p => body p.1 p.2 u) (g := d.store)
    (r := fun u m => u.params = s.params ∧ u.vram = m) (a := s) (b := s.vram) ⟨rfl, rfl⟩
    fun p _ u m ⟨hparams, hvram⟩ => hvram ▸ hbody p.1 p.2 u hparams
  exact hrun.2

/-- A rectangle whose bytes stand apart in their order leaves each stored. -/
theorem ByteMove.stored_rectangle (d : ByteMove) {nx ny : Nat} {body : Nat → Nat → State → State}
    (hwf : Memory.wf s.vram)
    (hapart : ∀ i j i' j', i < nx → j < ny → i' < nx → j' < ny → (j < j' ∨ j = j' ∧ i < i') →
      d.Apart (i, j) (i', j'))
    (hbody : ∀ i j u, u.params = s.params →
      (body i j u).params = s.params ∧ (body i j u).vram = d.store u.vram (i, j))
    (h : SameVideo t (overRectangle nx ny body s)) :
    d.Stored (rectangle nx ny) s.vram t.vram := by
  rw [h.vram, d.overRectangle_vram hbody]
  exact d.stored_foldl (rectangle_pairwise hapart) hwf

/-! ## HMMV (44_high_speed_moves.md R182) -/

/-- The rectangle of a start in byte units, every byte CL. -/
def fillMove (l : Layout) (planar : Bool) (r : Regs) : ByteMove :=
  { dest := fun p => l.byteAddress planar (r.destByte l p.1) (r.destY p.2)
    value := fun _ _ => r[12] }

/-- Bytes of one value are stored however often an address is written. -/
theorem fillMove_stored (hwf : Memory.wf s.vram) {r : Regs} {nx ny : Nat}
    (h : SameVideo t (overRectangle nx ny (fun i j u =>
      u.writeByteAt l (r.destByte l i) (r.destY j) r[12]) s)) :
    (fillMove l s.params.planarG6G7 r).Stored (rectangle nx ny) s.vram t.vram := by
  refine ByteMove.stored_rectangle _ hwf
    (fun _ _ _ _ _ _ _ _ _ => ⟨fun _ _ => rfl, fun _ _ => rfl⟩) (fun i j u hparams => ?_) h
  rw [writeByteAt_vram, writeByteAt_params, hparams]
  exact ⟨rfl, rfl⟩

/-- Settles O51: the bytes stored are those of the rectangle. -/
theorem byteFillWritesTheRectangle : Obligations.ByteFillWritesTheRectangle := by
  unfold Obligations.ByteFillWritesTheRectangle
  intro s l lo hs hwf at' inside
  obtain ⟨hinside, houtside⟩ := fillMove_stored hwf (effect_cmdHmmv_video hs lo)
  refine ⟨_, exec_of_unmarked rfl hs.1, fun a => ⟨?_, fun hout => ?_⟩⟩
  · rintro ⟨i, j, hi, hj, rfl⟩
    exact hinside (i, j) (mem_rectangle.2 ⟨hi, hj⟩)
  · refine houtside a fun p hp hat => hout ⟨p.1, p.2, ?_⟩
    obtain ⟨hi, hj⟩ := mem_rectangle.1 hp
    exact ⟨hi, hj, hat⟩

/-! ## Copies of byte columns that do not wrap (43_logical_moves.md R164) -/

/-- The byte column and row need no wrapping. -/
def InBytePage (l : Layout) (bx y : Int) : Prop :=
  (0 ≤ bx ∧ bx < l.bytesPerRow) ∧ (0 ≤ y ∧ y < l.rows)

/-- Without wrapping a byte has one column and one row (20_memory.md R68). -/
theorem byteAddress_injective {planar : Bool} {bx y bx' y' : Int} (h : InBytePage l bx y)
    (h' : InBytePage l bx' y') (hsame : l.byteAddress planar bx y = l.byteAddress planar bx' y') :
    bx = bx' ∧ y = y' := by
  obtain ⟨⟨hbx, hbxl⟩, hy, hyl⟩ := h
  obtain ⟨⟨hbx', hbxl'⟩, hy', hyl'⟩ := h'
  lift bx to Nat using hbx
  lift y to Nat using hy
  lift bx' to Nat using hbx'
  lift y' to Nat using hy'
  have h := (layoutsCoverVramOnce l planar).2 bx y bx' y' (mod_cast hbxl) (mod_cast hyl)
    (mod_cast hbxl') (mod_cast hyl') hsame
  exact_mod_cast h

/-- Where step `i` from `b` meets step `i'` from `a`, `i` comes after `i'` by the distance from `b` to
`a` in the direction of the steps. -/
theorem steps_meet {d a b : Int} (hd : d = 1 ∨ d = -1) {i i' : Nat} (h : b + i * d = a + i' * d) :
    (a - b) * d = i - i' := by
  obtain rfl | rfl := hd <;> omega

/-- The signs satisfy (a) or (b) of 43_logical_moves.md R164 for `n` byte columns from `sx` to `dx` on
in direction TX, or the rectangles do not overlap. -/
def ByteCopySafe (r : Regs) (sx dx : Int) (n : Nat) : Prop :=
  0 < ((r.sy.toNat : Int) - r.dy.toNat) * yStep r ∨
  ((r.sy.toNat : Int) = r.dy.toNat ∧ 0 ≤ (sx - dx) * xStep r) ∨
  ∀ i i' j j' : Nat, i < n → i' < n → j < r.ny.toNat → j' < r.ny.toNat →
    ¬ (sx + i * xStep r = dx + i' * xStep r ∧ r.sourceY j = r.destY j')

/-- In a safe copy no source byte is read after it has been a destination: where the two are the same
byte, the destination comes no sooner. -/
theorem ByteCopySafe.source_unwritten {r : Regs} {sx dx : Int} {n : Nat} (h : ByteCopySafe r sx dx n)
    {i j i' j' : Nat} (hi : i < n) (hj : j < r.ny.toNat) (hi' : i' < n) (hj' : j' < r.ny.toNat)
    (hbefore : j < j' ∨ j = j' ∧ i < i') :
    ¬ (dx + i * xStep r = sx + i' * xStep r ∧ r.destY j = r.sourceY j') := by
  rintro ⟨hx, hy⟩
  have hcolumns := steps_meet (xStep_cases r) hx
  have hrows := destY_eq_sourceY hy
  obtain hrow | ⟨hsame, hcolumn⟩ | hdisjoint := h
  · omega
  · rw [hsame, sub_self, zero_mul] at hrows
    omega
  · exact hdisjoint i' i j' j hi' hi hj' hj ⟨hx.symm, hy.symm⟩

/-- The byte columns from `dx` on in the destination rows of a start, each byte that of the column as
far from `sx` in the source row. -/
def copyMove (l : Layout) (planar : Bool) (r : Regs) (sx dx : Int) : ByteMove :=
  { dest := fun p => l.byteAddress planar (dx + p.1 * xStep r) (r.destY p.2)
    value := fun p m => m.read (l.byteAddress planar (sx + p.1 * xStep r) (r.sourceY p.2)) }

/-- The columns and rows of the copy need no wrapping. -/
def CopyInPage (l : Layout) (r : Regs) (sx dx : Int) (n : Nat) : Prop :=
  ∀ i j : Nat, i < n → j < r.ny.toNat → InBytePage l (sx + i * xStep r) (r.sourceY j) ∧
    InBytePage l (dx + i * xStep r) (r.destY j)

theorem copyMove_apart {r : Regs} {sx dx : Int} {n : Nat} (hin : CopyInPage l r sx dx n)
    (hsafe : ByteCopySafe r sx dx n) (planar : Bool) {i j i' j' : Nat} (hi : i < n)
    (hj : j < r.ny.toNat) (hi' : i' < n) (hj' : j' < r.ny.toNat)
    (hbefore : j < j' ∨ j = j' ∧ i < i') : (copyMove l planar r sx dx).Apart (i, j) (i', j') := by
  obtain ⟨-, hdest⟩ := hin i j hi hj
  obtain ⟨hsource', hdest'⟩ := hin i' j' hi' hj'
  constructor
  · intro hsame
    obtain ⟨hx, hy⟩ := byteAddress_injective hdest hdest' hsame
    have hcolumn := steps_meet (xStep_cases r) hx
    have hrow := destY_injective hy
    rw [sub_self, zero_mul] at hcolumn
    omega
  · intro m hwf
    refine (Memory.read_write hwf ..).trans (if_neg fun hsame => ?_)
    exact hsafe.source_unwritten hi hj hi' hj' hbefore
      (byteAddress_injective hdest hsource' hsame.symm)

/-- A safe copy that does not wrap stores in every destination byte the source byte as it was. -/
theorem copyMove_stored (hwf : Memory.wf s.vram) {r : Regs} {sx dx : Int} {n : Nat}
    (hin : CopyInPage l r sx dx n) (hsafe : ByteCopySafe r sx dx n)
    (h : SameVideo t (overRectangle n r.ny.toNat (fun i j u =>
      u.writeByteAt l (dx + i * xStep r) (r.destY j)
        (u.readByteAt l (sx + i * xStep r) (r.sourceY j))) s)) :
    (copyMove l s.params.planarG6G7 r sx dx).Stored (rectangle n r.ny.toNat) s.vram t.vram := by
  refine ByteMove.stored_rectangle _ hwf
    (fun i j i' j' => copyMove_apart hin hsafe s.params.planarG6G7) (fun i j u hparams => ?_) h
  rw [writeByteAt_vram, State.readByteAt, writeByteAt_params, hparams]
  exact ⟨rfl, rfl⟩

/-- Settles O52: no byte is visited twice, and every source byte is read before it is overwritten. -/
theorem byteCopyIsMemmoveSafe : Obligations.ByteCopyIsMemmoveSafe := by
  unfold Obligations.ByteCopyIsMemmoveSafe
  intro s l lo hs hwf nx ny tx ty sx₀ dx₀ sy₀ dy₀ inRow inPage at' hrow hpage hsafe
  have hin : CopyInPage l s.regs sx₀ dx₀ nx := fun i j hi hj =>
    ⟨⟨(hrow i hi).1, (hpage j hj).1⟩, ⟨(hrow i hi).2, (hpage j hj).2⟩⟩
  obtain ⟨hinside, houtside⟩ := copyMove_stored hwf hin hsafe (effect_cmdHmmm_video hs lo)
  exact ⟨_, exec_of_unmarked rfl hs.1,
    fun i j hi hj => hinside (i, j) (mem_rectangle.2 ⟨hi, hj⟩),
    fun a hout => houtside a fun p hp => hout p.1 p.2 (mem_rectangle.1 hp).1 (mem_rectangle.1 hp).2⟩

/-! ## YMMM (44_high_speed_moves.md R184) -/

theorem bytesPerRow_pos (l : Layout) : 0 < l.bytesPerRow := by
  cases l <;> decide

/-- The columns from DX to the edge lie in the row. -/
theorem edgeByte_range {r : Regs} {k : Nat} (hk : k < r.edgeCount l) :
    0 ≤ r.edgeByte l k ∧ r.edgeByte l k < l.bytesPerRow := by
  have hstart : r.edgeStart l < l.bytesPerRow := Nat.mod_lt _ (bytesPerRow_pos l)
  unfold Regs.edgeCount at hk
  unfold Regs.edgeByte xStep
  split at hk
  next hminus =>
    rw [if_pos hminus]
    omega
  next hplus =>
    rw [if_neg hplus]
    omega

/-- Rows copied onto themselves are safe as well: each byte is then its own source. -/
theorem byteCopySafe_same_column {r : Regs} (h : 0 ≤ ((r.sy.toNat : Int) - r.dy.toNat) * yStep r)
    (bx : Int) (n : Nat) : ByteCopySafe r bx bx n := by
  obtain hlt | hzero := h.lt_or_eq
  · exact .inl hlt
  · refine .inr (.inl ⟨?_, by rw [sub_self, zero_mul]⟩)
    obtain hstep | hstep := yStep_cases r <;> rw [hstep] at hzero <;> omega

/-- Settles O53: the copy of the columns from DX to the edge onto the same columns. -/
theorem columnCopyMovesRows : Obligations.ColumnCopyMovesRows := by
  unfold Obligations.ColumnCopyMovesRows
  intro s l lo hs hwf hx ny tx ty sy₀ dy₀ bx₀ n at' hpage hsigns
  have hin : CopyInPage l s.regs bx₀ bx₀ n := fun k j hk hj => by
    obtain ⟨hs0, hs1, hd0, hd1⟩ := hpage j hj
    exact ⟨⟨edgeByte_range hk, hs0, hs1⟩, ⟨edgeByte_range hk, hd0, hd1⟩⟩
  obtain ⟨hinside, houtside⟩ := copyMove_stored hwf hin (byteCopySafe_same_column hsigns bx₀ n)
    (effect_cmdYmmm_video hs hx lo)
  exact ⟨_, exec_of_unmarked rfl hs.1,
    fun k j hk hj => hinside (k, j) (mem_rectangle.2 ⟨hk, hj⟩),
    fun a hout => houtside a fun p hp => hout p.1 p.2 (mem_rectangle.1 hp).1 (mem_rectangle.1 hp).2⟩

end Sys2Proof.Machine
end

section
/-! PROOFS. Marks and faults: when a host call has a step, what raises a fault, and what no call
changes. -/

namespace Sys2Proof.Machine

variable {s t : State}

/-! ## Marks stop every host call (60_exceptions.md R204, R208) -/

theorem exec_of_fault {i : Instr} (hi : i.wellFormed = true) {r : Fault} (h : s.fault = some r) :
    exec i s = .fault r := by
  rw [exec_eq_hostCall hi, hostCall_of_fault h]

theorem exec_of_refused {i : Instr} (hi : i.wellFormed = true) {r : RefuseReason}
    (hf : s.fault = none) (h : s.refused = some r) : exec i s = .refused (.stuck r) := by
  rw [exec_eq_hostCall hi, hostCall_of_refused hf h]

/-- Only a step from a state without marks changes a mark: a host call has no other, and the other
inputs leave both marks alone. -/
theorem step_marks (h : step s = .next t) :
    s.Unmarked ∨ t.fault = s.fault ∧ t.refused = s.refused := by
  obtain ⟨-, rfl⟩ | ⟨c, rest, -, hexec⟩ | ⟨a, v, rest, -, rfl⟩ | ⟨rest, -, rfl⟩ := step_cases h
  · exact .inr ⟨rfl, rfl⟩
  · obtain ⟨-, hunmarked, -⟩ := exec_eq_next.1 hexec
    exact .inl hunmarked
  · exact .inr ⟨rfl, rfl⟩
  · exact .inr ⟨rfl, rfl⟩

/-- Settles O13: a host call looks at the marks first, and a step that changes one found none. -/
theorem markedStateIsStuck : Obligations.MarkedStateIsStuck := by
  unfold Obligations.MarkedStateIsStuck
  refine ⟨fun i s hi => ⟨fun r => exec_of_fault hi, fun r => exec_of_refused hi⟩, fun s t hstep => ?_⟩
  obtain ⟨hfault, hrefused⟩ | ⟨hfault, hrefused⟩ := step_marks hstep
  · simp [hfault, hrefused]
  · exact ⟨fun r => hfault.trans, fun r => hrefused.trans⟩

/-- Settles O14: the next state is the call's effect. -/
theorem unmarkedCallsHaveAStep : Obligations.UnmarkedCallsHaveAStep :=
  fun i s hi hs => ⟨effect i s, exec_of_unmarked hi hs⟩

/-! ## The calls that raise a fault (60_exceptions.md R205, R206) -/

/-- Settles O11: raising the fault is the whole effect of WR 15. -/
theorem writeOfRegister15RaisesTheFault : Obligations.WriteOfRegister15RaisesTheFault :=
  fun _ v hs => exec_of_unmarked (i := .wr15 v) rfl hs

theorem readPixel_of_inactive (h : s.ce = false ∨ ∀ g, s.geom = some g → g.cm ≠ .lmcm) :
    readPixel s = s.raiseFault .pixelReadWhenInactive := by
  unfold readPixel
  split
  · rfl
  next g hg =>
    refine if_neg fun ⟨hce, hcm⟩ => ?_
    obtain hidle | hother := h
    · exact Bool.false_ne_true (hidle.symm.trans hce)
    · exact hother g hg hcm

/-- Settles O45: no LMCM is active, so the effect of RP is the fault. -/
theorem pixelReadWhenInactiveRaisesTheFault : Obligations.PixelReadWhenInactiveRaisesTheFault := by
  unfold Obligations.PixelReadWhenInactiveRaisesTheFault
  intro s hs hinactive
  exact (exec_of_unmarked (i := .rp) rfl hs).trans (congrArg _ (readPixel_of_inactive hinactive))

/-! ## What lies outside the engine (60_exceptions.md R200, 40_dispatch.md R118) -/

/-- What a state holds besides the engine, video memory and the number of draws. -/
structure World where
  params : Config.Params
  time : Nat
  blank : Bool
  inbox : List Input
  saved : Option Record
  replies : List Byte

def State.world (s : State) : World :=
  { params := s.params, time := s.time, blank := s.blank, inbox := s.inbox, saved := s.saved,
    replies := s.replies }

theorem Completes.world {handler : Geom → State → State} (h : Completes handler) (g : Geom)
    (s : State) : (handler g s).world = s.world := by
  obtain ⟨v, d, c, he⟩ := h g s
  rw [he]
  rfl

theorem search_world (g : Geom) (s : State) : (search g s).world = s.world := by
  obtain ⟨b, x, c, he⟩ := search_completed g s
  rw [he]
  rfl

theorem hmmcStart_world (g : Geom) (s : State) : (hmmcStart g s).world = s.world := by
  unfold hmmcStart
  dsimp only
  split <;> rfl

theorem advance_world (s : State) (move : Geom → Geom) : (s.advance move).world = s.world := by
  rw [advance_eq]
  rfl

theorem setPixel_world (s : State) (l : Layout) (x y : Int) (c : Byte) (lo : BitVec 4) :
    (s.setPixel l x y c lo).world = s.world := by
  rw [setPixel_eq]
  rfl

theorem pixelWrite_world (v : Byte) (s : State) : (pixelWrite v s).world = s.world := by
  obtain he | ⟨g, -, ⟨-, he⟩ | ⟨-, he⟩⟩ := pixelWrite_cases v s <;> rw [he]
  · exact (advance_world _ _).trans (setPixel_world (s.cost .lmmc) ..)
  · exact advance_world _ _

theorem restoreSaved_world (s : State) : (restoreSaved s).world = s.world := by
  obtain he | ⟨r, -, he⟩ := restoreSaved_cases s <;> rw [he] <;> rfl

/-- RP gives the world at most one more reply. -/
theorem readPixel_world (s : State) :
    ∃ l, (readPixel s).world = { s.world with replies := s.replies ++ l } := by
  obtain he | ⟨g, -, -, he⟩ := readPixel_cases s <;> rw [he]
  · exact ⟨[], by rw [List.append_nil]; rfl⟩
  · exact ⟨[_], advance_world _ _⟩

/-- A start changes the world only by its handler. -/
theorem start_world {op : Opcode} {lo : BitVec 4} {handler : Geom → State → State}
    (h : ∀ g t, (handler g t).world = t.world) : (s.start op lo handler).world = s.world := by
  cases hop : op.isNoop with
  | true => rw [start_noop hop]; rfl
  | false =>
    obtain he | he | ⟨l, -, he | ⟨-, he⟩⟩ := start_cases (s := s) (lo := lo) (handler := handler) hop
      <;> rw [he]
    · rfl
    · rfl
    · rfl
    · exact h (snapshot op lo l s.regs) (s.running op lo l)

/-- Every call but SAVE, RS and RP leaves the world as it is. -/
theorem effect_world (s : State) :
    ∀ i, i ≠ .save ∧ i ≠ .rs ∧ i ≠ .rp → (effect i s).world = s.world
  | .wrSxl _, _ | .wrSxh _, _ | .wrSyl _, _ | .wrSyh _, _ | .wrDxl _, _ | .wrDxh _, _
  | .wrDyl _, _ | .wrDyh _, _ | .wrNxl _, _ | .wrNxh _, _ | .wrNyl _, _ | .wrNyh _, _
  | .wrArg _, _ | .wr15 _, _ | .mode _, _ | .vnote, _ | .reservedKind7, _
  | .reservedKinds8F, _ => rfl
  | .wrClr v, _ => pixelWrite_world v (s.writeReg 12 v)
  | .restore, _ => restoreSaved_world s
  | .cmdStop _, _ | .cmdUnknown1 _, _ | .cmdUnknown2 _, _ | .cmdUnknown3 _, _
  | .cmdUnknown4 _, _ | .cmdUnknown5 _, _ | .cmdLmcm _, _ | .cmdLmmc _, _ =>
    start_world fun _ _ => rfl
  | .cmdHmmc _, _ => start_world hmmcStart_world
  | .cmdSrch _, _ => start_world search_world
  | .cmdLine _, _ => start_world (Completes.world line_completed)
  | .cmdLmmv _, _ => start_world (Completes.world logicalFill_completed)
  | .cmdLmmm _, _ => start_world (Completes.world logicalCopy_completed)
  | .cmdHmmv _, _ => start_world (Completes.world byteFill_completed)
  | .cmdHmmm _, _ => start_world (Completes.world byteCopy_completed)
  | .cmdYmmm _, _ => start_world (Completes.world columnCopy_completed)
  | .save, h => absurd rfl h.1
  | .rs, h => absurd rfl h.2.1
  | .rp, h => absurd rfl h.2.2

/-- What any call does to the world: a record from SAVE alone, more replies from RS and RP alone. -/
theorem effect_world_cases (s : State) (i : Instr) :
    ∃ r l, (effect i s).world = { s.world with saved := r, replies := s.replies ++ l } ∧
      (i ≠ .save → r = s.saved) ∧ (i ≠ .rs ∧ i ≠ .rp → l = []) := by
  obtain rfl | rfl | rfl | hother :
      i = .save ∨ i = .rs ∨ i = .rp ∨ i ≠ .save ∧ i ≠ .rs ∧ i ≠ .rp := by tauto
  · exact ⟨some s.record, [], by rw [List.append_nil]; rfl, by simp, fun _ => rfl⟩
  · exact ⟨s.saved, [s.status], rfl, fun _ => rfl, by simp⟩
  · obtain ⟨l, hl⟩ := readPixel_world s
    exact ⟨s.saved, l, hl, fun _ => rfl, by simp⟩
  · exact ⟨s.saved, [], by rw [List.append_nil]; exact effect_world s i hother, fun _ => rfl,
      fun _ => rfl⟩

/-- Settles O60: the fields of the world that the call's effect leaves. -/
theorem callsLeaveTheWorldAlone : Obligations.CallsLeaveTheWorldAlone := by
  unfold Obligations.CallsLeaveTheWorldAlone
  intro i s t hexec
  obtain ⟨-, -, rfl⟩ := exec_eq_next.1 hexec
  obtain ⟨r, l, hworld, hsaved, hreplies⟩ := effect_world_cases s i
  have hrecord : (effect i s).saved = r := congrArg World.saved hworld
  have happend : (effect i s).replies = s.replies ++ l := congrArg World.replies hworld
  exact ⟨congrArg World.params hworld, congrArg World.time hworld, congrArg World.blank hworld,
    congrArg World.inbox hworld, fun h => hrecord.trans (hsaved h),
    fun h => by rw [happend, hreplies h, List.append_nil], l, happend⟩

end Sys2Proof.Machine
end

section
/-! PROOFS. The reset event, and the transfer that ends with its last call. -/

namespace Sys2Proof.Machine

variable {s : State} {g g' : Geom} {k : Nat}

/-! ## The reset event (70_reset_and_hazards.md R220) -/

/-- Settles O7: the step takes the input and resets the engine; the values are those of R37. -/
theorem resetEventResetsTheEngineOnly : Obligations.ResetEventResetsTheEngineOnly :=
  fun _ _ hinbox => step_reset hinbox

/-! ## The position a transfer moves (43_logical_moves.md R166, R169) -/

/-- The column at which a transfer stands: LMCM moves the source, LMMC and HMMC the destination. -/
def Geom.column (g : Geom) : Int := if g.cm = .lmcm then g.asx else g.adx

/-- The row at which a transfer stands. -/
def Geom.row (g : Geom) : Int := if g.cm = .lmcm then g.sy else g.dy

/-- The column at which each row of a transfer starts. -/
def Geom.rowStart (g : Geom) : Int := if g.cm = .lmcm then g.sx else g.dx

/-- How a call moves a transfer on. -/
def Geom.move (g : Geom) : Geom := if g.cm = .lmcm then g.advanceSource else g.advanceDest

/-- The transfer `g'` is the transfer `g` after `k` calls, `g` standing at the start of a row: the same
rectangle, at column `k mod NX` of row `k div NX` (70_reset_and_hazards.md R224). -/
structure Geom.After (g : Geom) (k : Nat) (g' : Geom) : Prop where
  cm : g'.cm = g.cm
  tx : g'.tx = g.tx
  ty : g'.ty = g.ty
  nx : g'.nx = g.nx
  rowStart : g'.rowStart = g.rowStart
  columnsLeft : g'.anx.val = g.nx.val - k % g.nx.val
  rowsLeft : g'.ny.val = g.ny.val - k / g.nx.val
  column : g'.column = g.rowStart + (k % g.nx.val : Nat) * g.tx.toInt
  row : g'.row = g.row + (k / g.nx.val : Nat) * g.ty.toInt

/-- At the start of a row the column is that of the row's start (10_state.md R32). -/
theorem Geom.PositionOk.column_eq_rowStart (h : g.PositionOk) (hanx : g.anx = g.nx) :
    g.column = g.rowStart := by
  unfold Geom.column Geom.rowStart
  split
  · simpa [*] using h.sourceColumn
  · simpa [*] using h.destColumn

theorem Geom.PositionOk.after_zero (h : g.PositionOk) (hanx : g.anx = g.nx) : g.After 0 g := by
  constructor <;> simp [h.column_eq_rowStart hanx, hanx]

/-- The cost counter is no part of the position. -/
theorem Geom.After.charged (h : g.After k g') (c : CostClass) (b : Bool) :
    g.After k (g'.charged c b) :=
  ⟨h.cm, h.tx, h.ty, h.nx, h.rowStart, h.columnsLeft, h.rowsLeft, h.column, h.row⟩

/-! ## One move: within the row, or on to the next -/

/-- A move keeps the rectangle. -/
theorem Geom.move_frame (g : Geom) : g.move.cm = g.cm ∧ g.move.tx = g.tx ∧ g.move.ty = g.ty ∧
    g.move.nx = g.nx ∧ g.move.rowStart = g.rowStart := by
  by_cases hcm : g.cm = .lmcm
  · by_cases hrow : g.endsRow = true <;>
      simp [Geom.move, Geom.advanceSource, Geom.rowStart, hcm, hrow]
  · by_cases hrow : g.endsRow = true <;>
      simp [Geom.move, Geom.advanceDest, Geom.rowStart, hcm, hrow]

theorem Geom.move_in_row (h : 2 ≤ g.anx.val) : g.move.column = g.column + g.tx.toInt ∧
    g.move.row = g.row ∧ g.move.anx.val = g.anx.val - 1 ∧ g.move.ny = g.ny := by
  by_cases hcm : g.cm = .lmcm
  · simp [Geom.move, Geom.column, Geom.row, hcm, advanceSource_in_row h]
  · simp [Geom.move, Geom.column, Geom.row, hcm, advanceDest_in_row h]

theorem Geom.move_at_end (h : g.anx.val ≤ 1) : g.move.column = g.rowStart ∧
    g.move.row = g.row + g.ty.toInt ∧ g.move.anx = g.nx ∧ g.move.ny.val = g.ny.val - 1 := by
  by_cases hcm : g.cm = .lmcm
  · simp [Geom.move, Geom.column, Geom.row, Geom.rowStart, hcm, advanceSource_at_end h]
  · simp [Geom.move, Geom.column, Geom.row, Geom.rowStart, hcm, advanceDest_at_end h]

/-! ## The position after one more call -/

theorem divMod_succ_in_row {n : Nat} (h : k % n + 1 < n) :
    (k + 1) / n = k / n ∧ (k + 1) % n = k % n + 1 :=
  (Nat.div_mod_unique (by omega)).2 ⟨by have := Nat.mod_add_div k n; omega, h⟩

theorem divMod_succ_at_end {n : Nat} (h : k % n + 1 = n) :
    (k + 1) / n = k / n + 1 ∧ (k + 1) % n = 0 :=
  (Nat.div_mod_unique (by omega)).2
    ⟨by have := Nat.mod_add_div k n; rw [Nat.mul_add]; omega, by omega⟩

theorem Geom.After.move (h : g.After k g') (hnx : 0 < g.nx.val) : g.After (k + 1) g'.move := by
  obtain ⟨hcm, htx, hty, hwidth, hstart, hcolumns, hrows, hcolumn, hrow⟩ := h
  obtain ⟨hcm', htx', hty', hwidth', hstart'⟩ := g'.move_frame
  have hcolumnLt := Nat.mod_lt k hnx
  suffices hposition : g'.move.anx.val = g.nx.val - (k + 1) % g.nx.val ∧
      g'.move.ny.val = g.ny.val - (k + 1) / g.nx.val ∧
      g'.move.column = g.rowStart + ((k + 1) % g.nx.val : Nat) * g.tx.toInt ∧
      g'.move.row = g.row + ((k + 1) / g.nx.val : Nat) * g.ty.toInt by
    obtain ⟨hcolumns', hrows', hcolumn', hrow'⟩ := hposition
    exact ⟨hcm'.trans hcm, htx'.trans htx, hty'.trans hty, hwidth'.trans hwidth,
      hstart'.trans hstart, hcolumns', hrows', hcolumn', hrow'⟩
  by_cases hk : k % g.nx.val + 1 < g.nx.val
  · obtain ⟨hcolumn', hrow', hcolumns', hrows'⟩ := g'.move_in_row (by omega)
    obtain ⟨hdiv, hmod⟩ := divMod_succ_in_row hk
    rw [hdiv, hmod, hcolumn', hrow', hcolumns', hrows', hcolumn, htx]
    refine ⟨by omega, hrows, ?_, hrow⟩
    push_cast
    ring
  · obtain ⟨hcolumn', hrow', hcolumns', hrows'⟩ := g'.move_at_end (by omega)
    obtain ⟨hdiv, hmod⟩ := divMod_succ_at_end (k := k) (n := g.nx.val) (by omega)
    rw [hdiv, hmod, hcolumn', hrow', hcolumns', hrows', hrow, hty, hwidth, hstart]
    refine ⟨by simp, by omega, by simp, ?_⟩
    push_cast
    ring

/-- The operation ends with the last of its NX NY calls (70_reset_and_hazards.md R224). -/
theorem Geom.After.endsOperation_iff (h : g.After k g') (hnx : 0 < g.nx.val)
    (hk : k < g.nx.val * g.ny.val) :
    g'.endsOperation = true ↔ k + 1 = g.nx.val * g.ny.val := by
  have hrow : k / g.nx.val < g.ny.val := Nat.div_lt_of_lt_mul hk
  have hcolumn := Nat.mod_lt k hnx
  have hdivmod := Nat.mod_add_div k g.nx.val
  rw [Machine.endsOperation_iff, h.columnsLeft, h.rowsLeft]
  constructor
  · rintro ⟨hlastColumn, hlastRow⟩
    rw [show g.ny.val = k / g.nx.val + 1 by omega, Nat.mul_add]
    omega
  · intro hlast
    by_cases hin : k % g.nx.val + 1 < g.nx.val
    · have hmod := (divMod_succ_in_row hin).2
      rw [hlast, Nat.mul_mod_right] at hmod
      omega
    · have hdiv := (divMod_succ_at_end (k := k) (n := g.nx.val) (by omega)).1
      rw [hlast, Nat.mul_div_cancel_left _ hnx] at hdiv
      omega

/-! ## A call of the active transfer (40_dispatch.md R102, R114) -/

/-- The call that moves the transfer `g` on: RP for LMCM, WR 12 for LMMC and HMMC. -/
def Geom.TakesCall (g : Geom) (i : Instr) : Prop :=
  if g.cm = .lmcm then i = .rp else ∃ v, i = .wrClr v

theorem advance_congr {m m' : Geom → Geom} (hg : s.geom = some g) (hm : m g = m' g) :
    s.advance m = s.advance m' := by
  simp [State.advance, hg, hm]

theorem advance_move_of_lmcm (hg : s.geom = some g) (hcm : g.cm = .lmcm) :
    s.advance Geom.advanceSource = s.advance Geom.move :=
  advance_congr hg (if_pos hcm).symm

theorem advance_move_of_ne_lmcm (hg : s.geom = some g) (hcm : g.cm ≠ .lmcm) :
    s.advance Geom.advanceDest = s.advance Geom.move :=
  advance_congr hg (if_neg hcm).symm

/-- A call of the active transfer charges a cost, touches neither marks nor status, and moves on. -/
theorem exec_transferCall (hs : s.Unmarked) (hce : s.ce = true) (hg : s.geom = some g)
    (htransfer : g.cm.isTransfer = true) {i : Instr} (hi : g.TakesCall i) :
    ∃ (u : State) (c : CostClass), exec i s = .next (u.advance Geom.move) ∧
      u.geom = some (g.charged c s.blank) ∧ u.Unmarked ∧ u.ce = s.ce ∧ u.tr = s.tr := by
  obtain hcm | hcm | hcm := isTransfer_iff.1 htransfer
  · obtain rfl : i = .rp := by simpa [Geom.TakesCall, hcm] using hi
    let u := (s.cost .lmcm).reply ((s.cost .lmcm).getPixel g.gl g.asx g.sy)
    have hu : u.geom = some (g.charged .lmcm s.blank) := cost_geom_of_some hg .lmcm
    refine ⟨u, .lmcm, ?_, hu, hs, rfl, rfl⟩
    rw [exec_of_unmarked rfl hs, ← advance_move_of_lmcm hu hcm]
    exact congrArg _ (readPixel_of_lmcm hce hg hcm)
  · obtain ⟨v, rfl⟩ : ∃ v, i = .wrClr v := by simpa [Geom.TakesCall, hcm] using hi
    let u := ((s.writeReg 12 v).cost .lmmc).setPixel g.gl g.adx g.dy v g.lo
    have hu : u.geom = some (g.charged .lmmc s.blank) :=
      setPixel_geom.trans (cost_geom_of_some (s := s.writeReg 12 v) hg .lmmc)
    obtain ⟨hfault, hrefused⟩ := hs
    refine ⟨u, .lmmc, ?_, hu, ⟨setPixel_fault.trans hfault, setPixel_refused.trans hrefused⟩,
      setPixel_ce, setPixel_tr⟩
    rw [exec_of_unmarked rfl ⟨hfault, hrefused⟩,
      ← advance_move_of_ne_lmcm hu (by simp [Geom.charged, hcm])]
    exact congrArg _ (pixelWrite_of_lmmc (s := s.writeReg 12 v) hce hg hcm v)
  · obtain ⟨v, rfl⟩ : ∃ v, i = .wrClr v := by simpa [Geom.TakesCall, hcm] using hi
    let u := ((s.writeReg 12 v).cost .hmmc).writeByteAt g.gl g.adx g.dy v
    have hu : u.geom = some (g.charged .hmmc s.blank) :=
      cost_geom_of_some (s := s.writeReg 12 v) hg .hmmc
    refine ⟨u, .hmmc, ?_, hu, hs, rfl, rfl⟩
    rw [exec_of_unmarked rfl hs, ← advance_move_of_ne_lmcm hu (by simp [Geom.charged, hcm])]
    exact congrArg _ (pixelWrite_of_hmmc (s := s.writeReg 12 v) hce hg hcm v)

/-! ## The whole transfer (70_reset_and_hazards.md R224) -/

/-- The transfer `g` has taken `k` calls in state `s`: it is active at its position, or has ended with its
last call. -/
structure State.HasTaken (s : State) (g : Geom) (k : Nat) : Prop where
  unmarked : s.Unmarked
  active : k < g.nx.val * g.ny.val →
    s.ce = true ∧ s.tr = true ∧ ∃ g', s.geom = some g' ∧ g.After k g'
  ended : k = g.nx.val * g.ny.val → s.ce = false ∧ s.tr = false ∧ s.geom = none

theorem State.HasTaken.exec (h : s.HasTaken g k) (htransfer : g.cm.isTransfer = true)
    (hnx : 0 < g.nx.val) (hk : k < g.nx.val * g.ny.val) {i : Instr} (hi : g.TakesCall i) :
    ∃ t, exec i s = .next t ∧ t.HasTaken g (k + 1) := by
  obtain ⟨hce, htr, g', hg, hafter⟩ := h.active hk
  have hcall : g'.TakesCall i := by rwa [Geom.TakesCall, hafter.cm]
  obtain ⟨u, c, hexec, hu, hunmarked, hce', htr'⟩ :=
    exec_transferCall h.unmarked hce hg (hafter.cm.symm ▸ htransfer) hcall
  have hcharged := hafter.charged c s.blank
  refine ⟨_, hexec, ?_⟩
  cases hend : (g'.charged c s.blank).endsOperation with
  | true =>
    have hlast := (hcharged.endsOperation_iff hnx hk).1 hend
    rw [advance_last hu hend]
    exact ⟨hunmarked, fun hlt => absurd hlast hlt.ne, fun _ => ⟨rfl, rfl, rfl⟩⟩
  | false =>
    have hnot : k + 1 ≠ g.nx.val * g.ny.val := fun hlast => by
      rw [(hcharged.endsOperation_iff hnx hk).2 hlast] at hend
      cases hend
    rw [advance_in_row hu hend]
    exact ⟨hunmarked, fun _ => ⟨hce'.trans hce, htr'.trans htr, _, rfl, hcharged.move hnx⟩,
      fun hlast => absurd hlast hnot⟩

theorem State.HasTaken.feed (htransfer : g.cm.isTransfer = true) (hnx : 0 < g.nx.val)
    {calls : List Instr} (hcalls : ∀ i ∈ calls, g.TakesCall i) (h : s.HasTaken g k)
    (hk : k + calls.length ≤ g.nx.val * g.ny.val) :
    ∃ t, feed calls s = .next t ∧ t.HasTaken g (k + calls.length) := by
  induction calls generalizing s k with
  | nil => exact ⟨s, rfl, h⟩
  | cons i rest ih =>
    obtain ⟨hi, hrest⟩ := List.forall_mem_cons.1 hcalls
    rw [List.length_cons] at hk ⊢
    obtain ⟨u, hexec, hu⟩ := h.exec htransfer hnx (by omega) hi
    obtain ⟨t, hfeed, ht⟩ := ih hrest hu (by omega)
    refine ⟨t, ?_, ?_⟩
    · simpa [Machine.feed, hexec] using hfeed
    · rwa [Nat.add_right_comm] at ht

/-- Settles O49: each call moves the transfer on by one, and it ends with the last of them. -/
theorem transferEndsWithItsLastCall : Obligations.TransferEndsWithItsLastCall := by
  unfold Obligations.TransferEndsWithItsLastCall
  intro s g calls hs hinv hg hanx hcalls
  obtain ⟨hactive, hready, -, htransfer⟩ := hinv.engine
  obtain ⟨hcm, hposition⟩ := htransfer g hg
  obtain ⟨hpending, hwidth, hny⟩ := hposition.pending
  have hnx : 0 < g.nx.val := by omega
  have hce : s.ce = true := by rw [hactive, hg]; rfl
  have htr : s.tr = true := by rw [hready, hg]; exact hcm
  have hsize : 0 < g.nx.val * g.ny.val := Nat.mul_pos hnx hny
  have hstart : s.HasTaken g 0 :=
    ⟨hs, fun _ => ⟨hce, htr, g, hg, hposition.after_zero hanx⟩, fun hzero => absurd hzero hsize.ne⟩
  have hfed (hlength : calls.length ≤ g.nx.val * g.ny.val) :
      ∃ t, feed calls s = .next t ∧ t.HasTaken g calls.length := by
    simpa using hstart.feed hcm hnx hcalls (by simpa using hlength)
  refine ⟨fun hlt => ?_, fun hlast => ?_⟩
  · obtain ⟨t, hfeed, ht⟩ := hfed hlt.le
    obtain ⟨htce, httr, g', hg', hafter⟩ := ht.active hlt
    refine ⟨t, g', hfeed, ht.unmarked, htce, httr, hg', hafter.cm, fun hlmcm => ?_, fun hother => ?_⟩
    · simpa [Geom.column, Geom.row, Geom.rowStart, hafter.cm, hlmcm] using
        And.intro hafter.column hafter.row
    · simpa [Geom.column, Geom.row, Geom.rowStart, hafter.cm, hother] using
        And.intro hafter.column hafter.row
  · obtain ⟨t, hfeed, ht⟩ := hfed hlast.le
    exact ⟨t, hfeed, ht.unmarked, ht.ended hlast⟩

end Sys2Proof.Machine
end

section
/-! PROOFS. RESTORE where nothing can resume: no record taken, or a transfer with nothing left to move. -/

namespace Sys2Proof.Machine

variable {s : State}

theorem exec_restore_none (hs : s.Unmarked) (hnone : s.saved = none) :
    exec .restore s = .next (s.refuse .badRecord) := by
  rw [exec_of_unmarked rfl hs]
  simp [effect, restoreSaved, hnone]

/-- An acceptable record of a transfer has something left to move (10_state.md R25). -/
theorem acceptable_transfer_unfinished {r : Record} {g : Geom} (h : r.acceptable = true)
    (hg : r.geom = some g) (htransfer : g.cm.isTransfer = true) :
    g.nx ≠ 0 ∧ g.anx ≠ 0 ∧ g.ny ≠ 0 := by
  obtain ⟨-, -, -, hposition⟩ := acceptable_iff.1 h
  exact (hposition g hg htransfer).2

/-- Settles O21: there is no record, or an acceptable one would have something left to move. -/
theorem restoreRefusesWhereNothingCanResume : Obligations.RestoreRefusesWhereNothingCanResume := by
  unfold Obligations.RestoreRefusesWhereNothingCanResume
  intro s hs hcases
  obtain hnone | ⟨r, g, hr, hg, htransfer, hzero⟩ := hcases
  · exact exec_restore_none hs hnone
  · refine exec_restore_refused hs hr fun hacceptable => ?_
    obtain ⟨hnx, hanx, hny⟩ := acceptable_transfer_unfinished hacceptable hg htransfer
    obtain h | h | h := hzero
    · exact hnx h
    · exact hanx h
    · exact hny h

end Sys2Proof.Machine
end
